-- ==== Sys2Proof/Word.lean ====
section
/-! DEFINITION. The widths of 00_scope.md R7 and R8: every value is an unsigned bit vector; nothing is signed. -/

namespace Sys2Proof

/-- A word: WORD = 32 bits (00_scope.md R7). -/
abbrev Word := BitVec 32

/-- A byte of M, P or OUT. -/
abbrev Byte := BitVec 8

/-- A command word {UNIT, FUNC, IMM} (30_encoding.md R90). -/
abbrev CmdWord := BitVec 16

end Sys2Proof
end

