-- ==== Sys2Proof/Config.lean ====
section
/-! DEFINITION. What an implementation fixes (00_scope.md R7, 92_eei_decisions.md) and the free values of
93_implementation_defined.md. Every `opaque` has no body: no proof can see a value of it, so what is proved holds for
every value of the parameter. -/

namespace Sys2Proof

/-- The four display modes, in the order of 10_state.md R37. -/
inductive DisplayMode where
  | binary | hexadecimal | character | integer
  deriving DecidableEq, Repr

/-- A diagnostic event of DIAGSTREAM (43_output.md R200, R202, R204): the padded buffer, or one block's schedule with
its block index. The text of an event is no part of it. -/
inductive DiagEvent where
  | padded (bytes : List Byte)
  | schedule (block : BitVec 64) (words : Vector Word 64)
  deriving DecidableEq, Repr

/-- MAX_MSG_BYTES - 1, in 0 .. 2^32 - 0x10000 - 1 (log 8). -/
opaque Config.maxMsgBytesPred : Fin 4294901760

/-- MAX_MSG_BYTES, OPEN with 0 < MAX_MSG_BYTES ≤ 2^32 − 0x0001_0000 (00_scope.md R7, D5; log 8). -/
def Config.maxMsgBytes : Nat := Config.maxMsgBytesPred.val + 1

/-- The length of CHAR_PLACEHOLDER less one, in 0 .. 255 (log 9). -/
opaque Config.placeholderLenPred : Fin 256

/-- The characters of CHAR_PLACEHOLDER, 7-bit ASCII codes (log 9). -/
opaque Config.placeholderChar : Nat → BitVec 7

/-- CHAR_PLACEHOLDER, OPEN: "a non-empty ASCII string of at most 256 bytes" (00_scope.md R7, D18; log 9). -/
def Config.charPlaceholder : List Byte :=
  (List.range (Config.placeholderLenPred.val + 1)).map fun k => (Config.placeholderChar k).setWidth 8

/-- DIAG_RENDER, OPEN: the text rendering of a diagnostic event (43_output.md R204, D20; log 10). No step reads it. -/
opaque Config.diagRender : DiagEvent → List Byte

/-- CORE_BASE, OPEN: where the platform places the window (20_memory.md R64, D2; log 11). Transactions carry offsets
from it, so no step reads it. -/
opaque Config.coreBase : Nat

/-- The `n`-th free value of a word: what an unspecified 32-bit read returns (93, "any value: a free draw, fresh on
every read"; log 3). -/
opaque Config.freeWord : Nat → Word

/-- The `n`-th free value of a byte (log 3). -/
opaque Config.freeByte : Nat → Byte

end Sys2Proof
end

