-- ==== Sys2Proof/Machine/Memory.lean ====
section
/-! DEFINITION. Byte buffers as plain data: a list of (index, byte) pairs in one canonical form. M (10_state.md R29)
and OUT (R40) are held so. -/

namespace Sys2Proof.Machine

/-- A byte buffer: its written bytes, by rising index. -/
abbrev Memory := List Host.Cell

/-- What a byte that nothing has written reads as: no value. The spec calls its content unspecified (10_state.md R29,
R40; 93 U6, U7), so whoever reads it draws a free byte (log 7). -/
def Memory.unlisted : Option Byte := none

/-- The canonical form: indices strictly rising. (No entry can equal `Memory.unlisted`, which is no byte.) -/
def Memory.wf : Memory → Bool
  | [] => true
  | [_] => true
  | (a, _) :: (b, y) :: rest => decide (a < b) && Memory.wf ((b, y) :: rest)

/-- The byte at index `k`. -/
def Memory.read : Memory → Nat → Option Byte
  | [], _ => Memory.unlisted
  | (a, x) :: rest, k => if a = k then some x else Memory.read rest k

/-- Write the byte `v` at index `k`, keeping the canonical form. -/
def Memory.write : Memory → Nat → Byte → Memory
  | [], k, v => [(k, v)]
  | (a, x) :: rest, k, v =>
    if k < a then (k, v) :: (a, x) :: rest
    else if k = a then (k, v) :: rest
    else (a, x) :: Memory.write rest k v

/-- Write the bytes `bs` at indices `k`, `k+1`, …, in order (`MemWrite` of 00_scope.md R10, byte by byte). -/
def Memory.writeList : Memory → Nat → List Byte → Memory
  | m, _, [] => m
  | m, k, b :: bs => Memory.writeList (Memory.write m k b) (k + 1) bs

end Sys2Proof.Machine
end

