-- ==== Sys2Proof/Syntax.lean ====
section
/-! DEFINITION. The instructions: one constructor per row of spec/opcode_table.json (30_encoding.md R91, R93), and the
two encoded forms an instruction can have: a 16-bit command word (R90) and a host bus transaction (R91). -/

namespace Sys2Proof

/-- One constructor per row of the opcode table. The IMM operand is 8 bits wide (R92); a host offset is 32 bits wide
(R91). -/
inductive Instr where
  | nop
  | digest
  | setmode (m : BitVec 8)
  | togglediag
  | pad
  | loadw (t : BitVec 8)
  | expw (t : BitVec 8)
  | ldiv
  | initwv
  | round (i : BitVec 8)
  | ffwd
  | loopblk (tgt : BitVec 8)
  | endRun
  | fmt
  | diagp
  | diagw
  | rd32 (off : BitVec 32)
  | wr32 (off : BitVec 32) (v : BitVec 32)
  | rd8 (off : BitVec 32)
  | wr8 (off : BitVec 32) (v : BitVec 8)
  deriving DecidableEq, Repr

/-- The kind of a host bus transaction (R91). -/
inductive BusKind where
  | read | write
  deriving DecidableEq, Repr

/-- The width of a host bus transaction, 8 or 32 (R91). -/
inductive BusWidth where
  | w8 | w32
  deriving DecidableEq, Repr

/-- A host bus transaction as it stands on the bus (R91): "the kind (read or write), the width (8 or 32), a 32-bit
offset and, for writes, a value of that width". -/
structure BusTxn where
  kind : BusKind
  width : BusWidth
  offset : BitVec 32
  value : Option (BitVec 32)
  deriving DecidableEq, Repr

/-- The two encoded forms: a command word (format CMD16) or a host bus transaction (format HOSTBUS). -/
inductive Encoded where
  | command (w : CmdWord)
  | bus (t : BusTxn)
  deriving DecidableEq, Repr

/-- Who may issue an instruction (R93's "issuer" column; R91 for the transactions). -/
inductive Issuer where
  | hostCommand | sequencer | hostBus
  deriving DecidableEq, Repr

/-- The issuer of each instruction (30_encoding.md R93, R91). -/
def Instr.issuer : Instr → Issuer
  | .nop => .hostCommand
  | .digest => .hostCommand
  | .setmode _ => .hostCommand
  | .togglediag => .hostCommand
  | .pad => .sequencer
  | .loadw _ => .sequencer
  | .expw _ => .sequencer
  | .ldiv => .sequencer
  | .initwv => .sequencer
  | .round _ => .sequencer
  | .ffwd => .sequencer
  | .loopblk _ => .sequencer
  | .endRun => .sequencer
  | .fmt => .sequencer
  | .diagp => .sequencer
  | .diagw => .sequencer
  | .rd32 _ => .hostBus
  | .wr32 _ _ => .hostBus
  | .rd8 _ => .hostBus
  | .wr8 _ _ => .hostBus

end Sys2Proof
end

