-- ==== Sys2Proof/Machine/State.lean ====
section
/-! DEFINITION. The state of the core: every row of 10_state.md R20 that is not a constant, and three fields of the
model's own (INVENTORY.md, State). Plain data. -/

namespace Sys2Proof.Machine

/-- The eight working variables (10_state.md R27). -/
structure WorkVars where
  a : Word
  b : Word
  c : Word
  d : Word
  e : Word
  f : Word
  g : Word
  h : Word
  deriving DecidableEq, Repr

/-- One turn of an agent (20_memory.md R73; log 1): the core's step, a host transaction, or reset (70 R291). -/
inductive Turn where
  | core
  | host (t : BusTxn)
  | reset
  deriving DecidableEq, Repr

/-- A value the host bus has returned for a read, of the read's width (log 2). -/
inductive BusRead where
  | word (v : BitVec 32)
  | byte (v : BitVec 8)
  deriving DecidableEq, Repr

/-- The state. -/
structure State where
  /-- H[0..7], the hash state (R26). -/
  H : Vector Word 8
  /-- a..h, the working variables (R27). -/
  wv : WorkVars
  /-- W[0..63], the message schedule (R28). -/
  W : Vector Word 64
  /-- M, the message buffer (R29). -/
  M : Memory
  /-- MSG_LEN (R30). -/
  msgLen : BitVec 32
  /-- P, the padded buffer (R31). -/
  P : List Byte
  /-- PLEN, the valid length of P in bytes (R31, D37). -/
  plen : BitVec 64
  /-- NBLK, the number of padded blocks (R31, D37). -/
  nblk : BitVec 64
  /-- BP, the block pointer (R32, D37). -/
  bp : BitVec 64
  /-- upc, the micro-program counter (R33). -/
  upc : BitVec 8
  /-- STATUS.BUSY (R35). -/
  busy : Bool
  /-- STATUS.DONE (R35). -/
  done : Bool
  /-- STATUS.CMD_ERR (R35). -/
  cmdErr : Bool
  /-- CFG.MODE (R36, R37). -/
  mode : DisplayMode
  /-- CFG.DIAG (R36, R38). -/
  diag : Bool
  /-- SMODE, the snapshot of MODE (R39). -/
  smode : DisplayMode
  /-- SDIAG, the snapshot of DIAG (R39). -/
  sdiag : Bool
  /-- OUT, the output text buffer (R40). -/
  out : Memory
  /-- OUT_LEN, the number of valid text bytes (R40). -/
  outLen : BitVec 9
  /-- DIAGSTREAM (R41). -/
  diagStream : List DiagEvent
  /-- The model's own: the pending turns of the agents, next first (log 1). -/
  turns : List Turn
  /-- The model's own: the values the host bus has returned, in order (log 2). -/
  hostReads : List BusRead
  /-- The model's own: how many free values have been drawn (log 3). -/
  draws : Nat
  deriving DecidableEq, Repr

/-- Why the machine stops with a fault. -/
inductive Fault where
  /-- Raised by the sequencer's fetch when BUSY = 1 and upc is outside 0..136, where UPROG holds no word. The spec says
  it never happens (10_state.md R33). Safe (log 18). -/
  | upcOutsideMicroProgram
  deriving DecidableEq, Repr

/-- Why a step is refused. -/
inductive Refusal where
  /-- Raised by `exec` for an instruction that has no meaning yet. Safe. -/
  | notModelled (mnemonic : String)
  /-- Raised by the sequencer's fetch if UPROG held an illegal word ("A decoder that meets one anyway must `refuse`",
  93 U10). UPROG holds none (44_control.md R229). Safe (log 17). -/
  | illegalMicroWord
  /-- Raised by LOADW, EXPW, ROUND and LOOPBLK for an operand outside 30_encoding.md R92, which no decoded word has
  (R94, R95; 93 U10). Safe (log 17). -/
  | illegalOperand
  /-- Raised when the host's turn is no transaction of 30_encoding.md R91. Safe (log 19). -/
  | malformedTransaction
  deriving DecidableEq, Repr

/-- The machine right after reset (70_reset_and_hazards.md R290). The spec gives no value for H, a..h, W (log 5) nor
for SMODE, SDIAG (log 6); M and OUT list nothing (log 7); the last three fields are the model's (log 22). -/
def State.reset : State where
  H := Vector.replicate 8 0#32
  wv := ⟨0#32, 0#32, 0#32, 0#32, 0#32, 0#32, 0#32, 0#32⟩
  W := Vector.replicate 64 0#32
  M := []
  msgLen := 0#32
  P := []
  plen := 0#64
  nblk := 0#64
  bp := 0#64
  upc := 0#8
  busy := false
  done := false
  cmdErr := false
  mode := .hexadecimal
  diag := false
  smode := .binary
  sdiag := false
  out := []
  outLen := 0#9
  diagStream := []
  turns := []
  hostReads := []
  draws := 0

/-- What one step of the core answers. -/
abbrev Result := Host.Outcome State Fault Refusal

end Sys2Proof.Machine
end

