-- ==== Sys2Proof/Machine/Operands.lean ====
section
/-! DEFINITION. The operand forms: what a host offset selects (20_memory.md R64, R65, R70) and what a mode code stands
for (10_state.md R37). The IMM operands' legal values are in WellFormed.lean (30_encoding.md R92). -/

namespace Sys2Proof.Machine

/-- What a 32-bit host offset selects in the window of 20_memory.md R64. -/
inductive Region where
  | cmd
  | status
  | cfg
  | outLen
  | msgLen
  | hash (j : Fin 8)
  /-- a register's byte that is not its aligned offset (R65: misaligned) -/
  | insideRegister
  | outByte (k : Nat)
  | msgByte (k : Nat)
  | reserved
  deriving DecidableEq, Repr

/-- The map of R64. The offset alone decides: an access at a reserved offset follows R70 at any width, whatever lies
above it (log 13). -/
def regionOf (off : BitVec 32) : Region :=
  let o := off.toNat
  if o = 0x0000 then .cmd
  else if o = 0x0004 then .status
  else if o = 0x0008 then .cfg
  else if o = 0x000C then .outLen
  else if o = 0x0010 then .msgLen
  else if o < 0x0014 then .insideRegister
  else if o < 0x0020 then .reserved
  else if h : o < 0x0040 then
    if o % 4 = 0 then .hash ⟨(o - 0x0020) / 4, by omega⟩ else .insideRegister
  else if o < 0x0100 then .reserved
  else if o < 0x0200 then .outByte (o - 0x0100)
  else if o < 0x10000 then .reserved
  else if o - 0x10000 < Config.maxMsgBytes then .msgByte (o - 0x10000)
  else .reserved

/-- The 2-bit code of a display mode (10_state.md R37). -/
def modeCode : DisplayMode → BitVec 2
  | .binary => 0#2
  | .hexadecimal => 1#2
  | .character => 2#2
  | .integer => 3#2

/-- The display mode of a 2-bit code (R37: "All four values are legal"). -/
def modeOfCode (m : BitVec 2) : DisplayMode :=
  match m.toNat with
  | 0 => .binary
  | 1 => .hexadecimal
  | 2 => .character
  | _ => .integer

end Sys2Proof.Machine
end

