-- ==== Sys2Proof/Machine/Flags.lean ====
section
/-! DEFINITION. The status and configuration words (10_state.md R35, R36) and every way their bits change. There are no
arithmetic flags (R45). -/

namespace Sys2Proof.Machine

/-- STATUS as it reads: `{29'b0, CMD_ERR, DONE, BUSY}` (44_control.md R234, 10_state.md R35). -/
def statusWord (s : State) : Word :=
  0#29 ++ BitVec.ofBool s.cmdErr ++ BitVec.ofBool s.done ++ BitVec.ofBool s.busy

/-- CFG as it reads: `{29'b0, DIAG, MODE[1:0]}` (44_control.md R234, 10_state.md R36). -/
def cfgWord (s : State) : Word :=
  0#29 ++ BitVec.ofBool s.diag ++ modeCode s.mode

/-- `reject()`: CMD_ERR <- 1 and nothing else (44_control.md R224). It is the machine's one error report; there is no
exception to take and none to return from (60_exceptions.md R260, R262, R265, R266). -/
def reject (s : State) : State := { s with cmdErr := true }

/-- A host write to STATUS: a 1 in bit 2 clears CMD_ERR, everything else is ignored (10_state.md R35, R235). -/
def writeStatus (s : State) (v : Word) : State :=
  if v.getLsbD 2 then { s with cmdErr := false } else s

/-- DIGEST accepted: the snapshot is taken, BUSY is set, DONE is cleared and upc is 0 (44_control.md R222). -/
def acceptDigest (s : State) : State :=
  { s with smode := s.mode, sdiag := s.diag, busy := true, done := false, upc := 0#8 }

/-- END: BUSY is cleared and DONE is set (44_control.md R232). -/
def finishRun (s : State) : State := { s with busy := false, done := true }

end Sys2Proof.Machine
end

