-- ==== Sys2Proof/Machine/ShaFn.lean ====
section
/-! DEFINITION. The word operators and functions of the core (00_scope.md R9, R10, R11) and the byte-order functions
(20_memory.md R60, R61). -/

namespace Sys2Proof.Machine

/-- `rotr(x, n)` for 0 < n < 32: `(x >> n) | ((x << (32 − n)) mod 2^32)` (R9). -/
def rotr (x : Word) (n : Nat) : Word := (x >>> n) ||| (x <<< (32 - n))

/-- σ0 (R11). -/
def sigma0 (x : Word) : Word := rotr x 7 ^^^ rotr x 18 ^^^ (x >>> 3)

/-- σ1 (R11). -/
def sigma1 (x : Word) : Word := rotr x 17 ^^^ rotr x 19 ^^^ (x >>> 10)

/-- Σ0, the source's `S0` (R11). -/
def bigSigma0 (x : Word) : Word := rotr x 2 ^^^ rotr x 13 ^^^ rotr x 22

/-- Σ1, the source's `S1` (R11). -/
def bigSigma1 (x : Word) : Word := rotr x 6 ^^^ rotr x 11 ^^^ rotr x 25

/-- Ch (R11). -/
def ch (e f g : Word) : Word := (e &&& f) ^^^ (~~~e &&& g)

/-- Maj (R11). -/
def maj (a b c : Word) : Word := (a &&& b) ^^^ (a &&& c) ^^^ (b &&& c)

/-- The number a byte sequence stands for, the first byte the most significant (R10, 20_memory.md R60). -/
def beNat (bs : List Byte) : Nat := bs.foldl (fun n b => n * 256 + b.toNat) 0

/-- BE32 of four bytes (R10). -/
def be32 (bs : List Byte) : Word := BitVec.ofNat 32 (beNat bs)

/-- BE64: "the 8 bytes of x from the most significant byte down" (R10). -/
def be64 (x : BitVec 64) : List Byte :=
  [x.extractLsb' 56 8, x.extractLsb' 48 8, x.extractLsb' 40 8, x.extractLsb' 32 8,
   x.extractLsb' 24 8, x.extractLsb' 16 8, x.extractLsb' 8 8, x.extractLsb' 0 8]

/-- z, the number of zero bytes for a message of `len` bytes: `(55 − (L mod 64)) mod 64` (40_padding.md R120, R122),
written without a negative number. -/
def zeroCount (len : Nat) : Nat := (55 + 64 - len % 64) % 64

/-- The bit-length field's value: `(8·L) mod 2^64`, the low 64 bits (R121, R124). -/
def bitLength (len : Nat) : BitVec 64 := BitVec.ofNat 64 (8 * len)

/-- The padded buffer of a message (R120). -/
def padMessage (msg : List Byte) : List Byte :=
  msg ++ [0x80#8] ++ List.replicate (zeroCount msg.length) 0#8 ++ be64 (bitLength msg.length)

/-- `W[t-16] + σ0(W[t-15]) + W[t-7] + σ1(W[t-2])` (41_schedule.md R142). -/
def expandWord (w : Vector Word 64) (t : Nat) (h : 16 ≤ t ∧ t ≤ 63) : Word :=
  w[t - 16] + sigma0 w[t - 15] + w[t - 7] + sigma1 w[t - 2]

/-- One compression round on the working variables, with K[i] and W[i] given (42_compression.md R166). -/
def roundStep (v : WorkVars) (k w : Word) : WorkVars :=
  let temp1 := v.h + bigSigma1 v.e + ch v.e v.f v.g + k + w
  let temp2 := bigSigma0 v.a + maj v.a v.b v.c
  { a := temp1 + temp2, b := v.a, c := v.b, d := v.c, e := v.d + temp1, f := v.e, g := v.f, h := v.g }

/-- The working variables loaded from a hash state (R164). -/
def workVarsOf (H : Vector Word 8) : WorkVars :=
  ⟨H[0], H[1], H[2], H[3], H[4], H[5], H[6], H[7]⟩

/-- The feed-forward sum, lane by lane (R170). -/
def feedForward (H : Vector Word 8) (v : WorkVars) : Vector Word 8 :=
  #v[H[0] + v.a, H[1] + v.b, H[2] + v.c, H[3] + v.d, H[4] + v.e, H[5] + v.f, H[6] + v.g, H[7] + v.h]

end Sys2Proof.Machine
end

