-- ==== Sys2Proof/Machine/Ops.lean ====
section
/-! DEFINITION. The named operations the meanings share: advancing upc, reading M and P, drawing free values, returning
read data, emitting diagnostic events, and reset. Taking an exception has no operation: the core has no exception, no
trap entry and no trap return (60_exceptions.md R260, R265, R266); its one error report is `reject` (Flags.lean). -/

namespace Sys2Proof.Machine

/-- `upc <- upc + 1` (10_state.md R33). -/
def advance (s : State) : State := { s with upc := s.upc + 1#8 }

/-- Give every byte without a value a free one, drawn in order from draw number `d`; answers the bytes and the next
draw number (93, "any value"; log 3). -/
def fillDraws (d : Nat) : List (Option Byte) → List Byte × Nat
  | [] => ([], d)
  | some b :: rest => (b :: (fillDraws d rest).1, (fillDraws d rest).2)
  | none :: rest => (Config.freeByte d :: (fillDraws (d + 1) rest).1, (fillDraws (d + 1) rest).2)

/-- `MemRead(M, addr, n)`, a byte the host never wrote having no value (00_scope.md R10; 93 U7; log 7). -/
def memReadM (s : State) (addr n : Nat) : List (Option Byte) :=
  (List.range n).map fun k => s.M.read (addr + k)

/-- `MemRead(P, addr, n)`, a byte outside P having no value (00_scope.md R10; log 16). -/
def memReadP (s : State) (addr n : Nat) : List (Option Byte) :=
  (List.range n).map fun k => s.P[addr + k]?

/-- `emit(e)`: append to DIAGSTREAM (00_scope.md R10, 10_state.md R41). -/
def emit (s : State) (e : DiagEvent) : State := { s with diagStream := s.diagStream ++ [e] }

/-- The text of DIAGSTREAM on the diagnostic port, in the rendering the spec leaves open (43_output.md R204; log 10).
No step reads it. -/
def diagText (s : State) : List Byte := s.diagStream.flatMap Config.diagRender

/-- A 32-bit host read returns `v` (log 2). -/
def returnWord (s : State) (v : Word) : State := { s with hostReads := s.hostReads ++ [.word v] }

/-- An 8-bit host read returns `v` (log 2). -/
def returnByte (s : State) (v : Byte) : State := { s with hostReads := s.hostReads ++ [.byte v] }

/-- A 32-bit host read returns an unspecified value: a fresh draw (10_state.md R44; log 3). -/
def returnFreeWord (s : State) : State :=
  { returnWord s (Config.freeWord s.draws) with draws := s.draws + 1 }

/-- An 8-bit host read returns an unspecified value: a fresh draw (10_state.md R44; log 3). -/
def returnFreeByte (s : State) : State :=
  { returnByte s (Config.freeByte s.draws) with draws := s.draws + 1 }

/-- Reset while the machine runs (70_reset_and_hazards.md R291): every item of R290 goes to its reset value, and the
items whose reset value is unspecified take fresh free values (93 U8, U9; log 12). The host's pending turns and the
values it has read are outside the core and stay. -/
def resetInput (s : State) : State :=
  let free (k : Nat) : Word := Config.freeWord (s.draws + k)
  { State.reset with
    H := #v[free 0, free 1, free 2, free 3, free 4, free 5, free 6, free 7]
    wv := ⟨free 8, free 9, free 10, free 11, free 12, free 13, free 14, free 15⟩
    W := ⟨((List.range 64).map fun t => free (16 + t)).toArray, rfl⟩
    smode := modeOfCode ((free 80).extractLsb' 0 2)
    sdiag := (free 81).getLsbD 0
    turns := s.turns
    hostReads := s.hostReads
    draws := s.draws + 82 }

end Sys2Proof.Machine
end

