-- ==== Sys2Proof/WellFormed.lean ====
section
/-! DEFINITION. Which instructions are well formed: the legal values of IMM (30_encoding.md R92). -/

namespace Sys2Proof

/-- LOADW's word index t is in 0..15 (R92). -/
abbrev legalLoadIndex (t : BitVec 8) : Prop := t.toNat ≤ 15

/-- EXPW's word index t is in 16..63 (R92). -/
abbrev legalExpandIndex (t : BitVec 8) : Prop := 16 ≤ t.toNat ∧ t.toNat ≤ 63

/-- ROUND's round index i is in 0..63 (R92). -/
abbrev legalRoundIndex (i : BitVec 8) : Prop := i.toNat ≤ 63

/-- LOOPBLK's target is a micro-program address, 0..136 (R92). -/
abbrev legalTarget (tgt : BitVec 8) : Prop := tgt.toNat ≤ 136

/-- An instruction is well formed when its operand is one of R92's legal values. SETMODE takes every IMM: "SETMODE with
IMM 4..255 decodes as SETMODE" (R94). The offset and the value of a host bus transaction are not restricted (R91). -/
def Instr.wf : Instr → Bool
  | .nop => true
  | .digest => true
  | .setmode _ => true
  | .togglediag => true
  | .pad => true
  | .loadw t => decide (legalLoadIndex t)
  | .expw t => decide (legalExpandIndex t)
  | .ldiv => true
  | .initwv => true
  | .round i => decide (legalRoundIndex i)
  | .ffwd => true
  | .loopblk tgt => decide (legalTarget tgt)
  | .endRun => true
  | .fmt => true
  | .diagp => true
  | .diagw => true
  | .rd32 _ => true
  | .wr32 _ _ => true
  | .rd8 _ => true
  | .wr8 _ _ => true

end Sys2Proof
end

