-- ==== Sys2Proof/Decode.lean ====
section
/-! DEFINITION. The decoder of command words and of host bus transactions, total, rejecting by name (30_encoding.md
R90 to R98), and the encoder, written from the same tables. -/

namespace Sys2Proof

/-- Why a command word or a bus transaction is no instruction. -/
inductive DecodeError where
  /-- UNIT 6..15 (R95). -/
  | reservedUnit
  /-- a FUNC that the word's UNIT does not have (R95). -/
  | reservedFunc
  /-- IMM outside R92's legal values (R95). -/
  | illegalOperand
  /-- a read transaction that carries a value (R91; log 19). -/
  | readWithValue
  /-- a write transaction without a value (R91; log 19). -/
  | writeWithoutValue
  /-- an 8-bit write whose value does not fit in 8 bits (R91; log 19). -/
  | valueTooWide
  deriving DecidableEq, Repr

/-- UNIT, bits 15:12 (R90). -/
def unitOf (w : CmdWord) : BitVec 4 := w.extractLsb' 12 4

/-- FUNC, bits 11:8 (R90). -/
def funcOf (w : CmdWord) : BitVec 4 := w.extractLsb' 8 4

/-- IMM, bits 7:0, read as an unsigned 8-bit number (R90, R92). -/
def immOf (w : CmdWord) : BitVec 8 := w.extractLsb' 0 8

/-- A row of R93 without operand: IMM must be 0 (R92). -/
def withoutOperand (imm : BitVec 8) (i : Instr) : Except DecodeError Instr :=
  if imm = 0#8 then .ok i else .error .illegalOperand

/-- A row of R93 with an operand: the instruction must be well formed (R92). -/
def withOperand (i : Instr) : Except DecodeError Instr :=
  if i.wf then .ok i else .error .illegalOperand

/-- The decoder of command words (R94): UNIT and FUNC select the row of R93, then IMM is checked. -/
def decodeCommand (w : CmdWord) : Except DecodeError Instr :=
  match (unitOf w).toNat, (funcOf w).toNat with
  | 0, 0 => withoutOperand (immOf w) .nop
  | 0, 1 => withoutOperand (immOf w) .digest
  | 0, 2 => withOperand (.setmode (immOf w))
  | 0, 3 => withoutOperand (immOf w) .togglediag
  | 1, 0 => withoutOperand (immOf w) .pad
  | 2, 0 => withOperand (.loadw (immOf w))
  | 2, 1 => withOperand (.expw (immOf w))
  | 3, 0 => withoutOperand (immOf w) .ldiv
  | 3, 1 => withoutOperand (immOf w) .initwv
  | 3, 2 => withOperand (.round (immOf w))
  | 3, 3 => withoutOperand (immOf w) .ffwd
  | 4, 0 => withOperand (.loopblk (immOf w))
  | 4, 15 => withoutOperand (immOf w) .endRun
  | 5, 0 => withoutOperand (immOf w) .fmt
  | 5, 1 => withoutOperand (immOf w) .diagp
  | 5, 2 => withoutOperand (immOf w) .diagw
  | unit, _ => if unit ≤ 5 then .error .reservedFunc else .error .reservedUnit

/-- The decoder of host bus transactions (R91). -/
def decodeBus (t : BusTxn) : Except DecodeError Instr :=
  match t.kind, t.width, t.value with
  | .read, .w32, none => .ok (.rd32 t.offset)
  | .read, .w8, none => .ok (.rd8 t.offset)
  | .read, _, some _ => .error .readWithValue
  | .write, _, none => .error .writeWithoutValue
  | .write, .w32, some v => .ok (.wr32 t.offset v)
  | .write, .w8, some v =>
    if v.toNat < 256 then .ok (.wr8 t.offset (v.setWidth 8)) else .error .valueTooWide

/-- The whole decoder: total on every command word and every transaction. -/
def decode : Encoded → Except DecodeError Instr
  | .command w => decodeCommand w
  | .bus t => decodeBus t

/-- A command word of the given UNIT:FUNC byte and IMM (R90). -/
def commandWord (unitFunc : BitVec 8) (imm : BitVec 8) : Encoded := .command (unitFunc ++ imm)

/-- The encoder, from R93's UNIT and FUNC columns and R91. -/
def encode : Instr → Encoded
  | .nop => commandWord 0x00#8 0#8
  | .digest => commandWord 0x01#8 0#8
  | .setmode m => commandWord 0x02#8 m
  | .togglediag => commandWord 0x03#8 0#8
  | .pad => commandWord 0x10#8 0#8
  | .loadw t => commandWord 0x20#8 t
  | .expw t => commandWord 0x21#8 t
  | .ldiv => commandWord 0x30#8 0#8
  | .initwv => commandWord 0x31#8 0#8
  | .round i => commandWord 0x32#8 i
  | .ffwd => commandWord 0x33#8 0#8
  | .loopblk tgt => commandWord 0x40#8 tgt
  | .endRun => commandWord 0x4F#8 0#8
  | .fmt => commandWord 0x50#8 0#8
  | .diagp => commandWord 0x51#8 0#8
  | .diagw => commandWord 0x52#8 0#8
  | .rd32 off => .bus ⟨.read, .w32, off, none⟩
  | .wr32 off v => .bus ⟨.write, .w32, off, some v⟩
  | .rd8 off => .bus ⟨.read, .w8, off, none⟩
  | .wr8 off v => .bus ⟨.write, .w8, off, some (v.setWidth 32)⟩

/-- A bus transaction laid out as one number: bit 0 the kind (1 is write), bit 1 the width (1 is 32), bits 7:2 zero,
bits 39:8 the offset, bits 71:40 the value of a write. The spec gives a transaction no bit positions: this layout is
the model's (log 19), used only where the host hands an instruction over as a number. -/
def busOfBits (w : Nat) : Option BusTxn :=
  if (w / 4) % 64 = 0 then
    some {
      kind := if w % 2 = 1 then .write else .read
      width := if (w / 2) % 2 = 1 then .w32 else .w8
      offset := BitVec.ofNat 32 (w / 2 ^ 8)
      value := if w % 2 = 1 then some (BitVec.ofNat 32 (w / 2 ^ 40)) else none }
  else none

/-- What an encoded form given as a number stands for: up to 16 bits a command word, more bits a bus transaction in the
layout of `busOfBits` (log 19). -/
def encodedOfBits (nbits w : Nat) : Option Encoded :=
  if nbits ≤ 16 then
    if w < 2 ^ 16 then some (.command (BitVec.ofNat 16 w)) else none
  else (busOfBits w).map .bus

/-- The instruction the decoder reads from a word of the opcode table. -/
def decodeTableWord (nbits w : Nat) : Option Instr :=
  match encodedOfBits nbits w with
  | some e =>
    match decode e with
    | .ok i => some i
    | .error _ => none
  | none => none

end Sys2Proof
end

