-- ==== Sys2Proof/Machine/Compression.lean ====
section
/-! DEFINITION. The compression round engine: LDIV, INITWV, ROUND, FFWD (42_compression.md). -/

namespace Sys2Proof.Machine

/-- LDIV (42_compression.md R162). -/
def execLdiv (s : State) : Result := .next (advance { s with H := initialHash })

/-- INITWV (42_compression.md R164). -/
def execInitwv (s : State) : Result := .next (advance { s with wv := workVarsOf s.H })

/-- ROUND i (42_compression.md R166). -/
def execRound (i : BitVec 8) (s : State) : Result :=
  if h : legalRoundIndex i then
    .next (advance { s with wv := roundStep s.wv (roundConstants[i.toNat]'(by omega)) (s.W[i.toNat]'(by omega)) })
  else .refused .illegalOperand

/-- FFWD (42_compression.md R170). -/
def execFfwd (s : State) : Result :=
  .next (advance { s with H := feedForward s.H s.wv, bp := s.bp + 1#64 })

end Sys2Proof.Machine
end

