-- ==== Sys2Proof/Machine/Control.lean ====
section
/-! DEFINITION. The host commands NOP, DIGEST, SETMODE, TOGGLEDIAG and the sequencer operations LOOPBLK, END
(44_control.md). -/

namespace Sys2Proof.Machine

/-- NOP (44_control.md R221): no state changes. -/
def execNop (s : State) : Result := .next s

/-- DIGEST (44_control.md R222). -/
def execDigest (s : State) : Result :=
  .next (
    if s.busy then reject s
    else if Config.maxMsgBytes < s.msgLen.toNat then reject s
    else acceptDigest s)

/-- SETMODE m (44_control.md R225). -/
def execSetmode (m : BitVec 8) (s : State) : Result :=
  .next (if m.toNat ≤ 3 then { s with mode := modeOfCode (m.extractLsb' 0 2) } else reject s)

/-- TOGGLEDIAG (44_control.md R226). -/
def execTogglediag (s : State) : Result := .next { s with diag := !s.diag }

/-- LOOPBLK tgt (44_control.md R231). -/
def execLoopblk (tgt : BitVec 8) (s : State) : Result :=
  if legalTarget tgt then
    .next (if s.bp < s.nblk then { s with upc := tgt } else advance s)
  else .refused .illegalOperand

/-- END (44_control.md R232): upc is unchanged. -/
def execEndRun (s : State) : Result := .next (finishRun s)

end Sys2Proof.Machine
end

