-- ==== Sys2Proof/Machine/HostBus.lean ====
section
/-! DEFINITION. The host bus transactions RD32, WR32, RD8, WR8 and the command dispatch (44_control.md R220, R234 to
R237). -/

namespace Sys2Proof.Machine

/-- A rejected 32-bit read sets CMD_ERR and returns 0 (44_control.md R224). -/
def rejectRead32 (s : State) : State := returnWord (reject s) 0#32

/-- A rejected 8-bit read sets CMD_ERR and returns 0 (44_control.md R224). -/
def rejectRead8 (s : State) : State := returnByte (reject s) 0#8

/-- A host write of `v` to CMD issues a command, checked in the order of 44_control.md R220: bits 31:16 (30 R96),
illegal words (R95), sequencer-only words (R97), then the command's own rule. -/
def issueCommand (v : Word) (s : State) : Result :=
  if v.extractLsb' 16 16 ≠ 0#16 then .next (reject s)
  else
    match decodeCommand (v.extractLsb' 0 16) with
    | .error _ => .next (reject s)
    | .ok .nop => execNop s
    | .ok .digest => execDigest s
    | .ok (.setmode m) => execSetmode m s
    | .ok .togglediag => execTogglediag s
    | .ok .pad => .next (reject s)
    | .ok (.loadw _) => .next (reject s)
    | .ok (.expw _) => .next (reject s)
    | .ok .ldiv => .next (reject s)
    | .ok .initwv => .next (reject s)
    | .ok (.round _) => .next (reject s)
    | .ok .ffwd => .next (reject s)
    | .ok (.loopblk _) => .next (reject s)
    | .ok .endRun => .next (reject s)
    | .ok .fmt => .next (reject s)
    | .ok .diagp => .next (reject s)
    | .ok .diagw => .next (reject s)
    | .ok (.rd32 _) => .next (reject s)
    | .ok (.wr32 _ _) => .next (reject s)
    | .ok (.rd8 _) => .next (reject s)
    | .ok (.wr8 _ _) => .next (reject s)

/-- RD32 off (44_control.md R234; reserved offsets 20_memory.md R70). H[j] is unspecified "while BUSY = 1, and before
the first completed DIGEST", which is while DONE = 0 (log 15). -/
def execRd32 (off : BitVec 32) (s : State) : Result :=
  .next (
    match regionOf off with
    | .cmd => returnWord s 0#32
    | .status => returnWord s (statusWord s)
    | .cfg => returnWord s (cfgWord s)
    | .outLen => if s.busy then returnFreeWord s else returnWord s (s.outLen.setWidth 32)
    | .msgLen => returnWord s s.msgLen
    | .hash j => if s.busy || !s.done then returnFreeWord s else returnWord s s.H[j]
    | .insideRegister => rejectRead32 s
    | .outByte _ => rejectRead32 s
    | .msgByte _ => rejectRead32 s
    | .reserved => returnWord s 0#32)

/-- WR32 off v (44_control.md R235; reserved offsets 20_memory.md R70). -/
def execWr32 (off : BitVec 32) (v : BitVec 32) (s : State) : Result :=
  match regionOf off with
  | .cmd => issueCommand v s
  | .status => .next (writeStatus s v)
  | .cfg => .next (reject s)
  | .outLen => .next (reject s)
  | .msgLen => .next (if s.busy then reject s else { s with msgLen := v })
  | .hash _ => .next (reject s)
  | .insideRegister => .next (reject s)
  | .outByte _ => .next (reject s)
  | .msgByte _ => .next (reject s)
  | .reserved => .next (reject s)

/-- What an 8-bit read of a buffer returns: its byte, or a free draw where it has no value (93 U6, U7). -/
def returnStored (s : State) : Option Byte → State
  | some b => returnByte s b
  | none => returnFreeByte s

/-- RD8 off (44_control.md R236; reserved offsets 20_memory.md R70). -/
def execRd8 (off : BitVec 32) (s : State) : Result :=
  .next (
    match regionOf off with
    | .outByte k => if s.busy || decide (s.outLen.toNat ≤ k) then returnFreeByte s else returnStored s (s.out.read k)
    | .msgByte k => returnStored s (s.M.read k)
    | .reserved => returnByte s 0#8
    | .cmd => rejectRead8 s
    | .status => rejectRead8 s
    | .cfg => rejectRead8 s
    | .outLen => rejectRead8 s
    | .msgLen => rejectRead8 s
    | .hash _ => rejectRead8 s
    | .insideRegister => rejectRead8 s)

/-- WR8 off v (44_control.md R237; reserved offsets 20_memory.md R70). -/
def execWr8 (off : BitVec 32) (v : BitVec 8) (s : State) : Result :=
  .next (
    match regionOf off with
    | .msgByte k => if s.busy then reject s else { s with M := s.M.write k v }
    | .outByte _ => reject s
    | .reserved => reject s
    | .cmd => reject s
    | .status => reject s
    | .cfg => reject s
    | .outLen => reject s
    | .msgLen => reject s
    | .hash _ => reject s
    | .insideRegister => reject s)

end Sys2Proof.Machine
end

