-- ==== Sys2Proof/Machine/Output.lean ====
section
/-! DEFINITION. The output formatter: FMT, DIAGP, DIAGW (43_output.md). -/

namespace Sys2Proof.Machine

/-- The ASCII byte of a digit 0..15: `0`..`9`, then the capital letters `A`..`F` (43_output.md R191, R195). -/
def digitChar (d : Nat) : Byte := if d < 10 then BitVec.ofNat 8 (0x30 + d) else BitVec.ofNat 8 (0x41 + (d - 10))

/-- The eight hexadecimal digits of a word, most significant first: digit k is x[31−4k : 28−4k] (R191). -/
def hex8 (x : Word) : List Byte :=
  (List.range 8).map fun k => digitChar (x.extractLsb' (28 - 4 * k) 4).toNat

/-- The digits of `n` in base `base`, most significant first, no leading zeros, one digit 0 for n = 0. `fuel` bounds
the number of digits. -/
def numeralDigits (base : Nat) : Nat → Nat → List Nat
  | 0, _ => []
  | fuel + 1, n => if n < base then [n] else numeralDigits base fuel (n / base) ++ [n % base]

/-- bin(x): the binary numeral with no leading zeros; bin(0) = "0" (R192). A word has at most 32 binary digits. -/
def binNumeral (x : Word) : List Byte := (numeralDigits 2 32 x.toNat).map digitChar

/-- dec(x): the unsigned decimal numeral with no leading zeros; dec(0) = "0" (R193). Ten digits suffice. -/
def decNumeral (x : Word) : List Byte := (numeralDigits 10 10 x.toNat).map digitChar

/-- The text of a hash state in a display mode (R190 to R194). -/
def textOf (mode : DisplayMode) (H : Vector Word 8) : List Byte :=
  match mode with
  | .hexadecimal => H.toList.flatMap hex8
  | .binary => H.toList.flatMap binNumeral
  | .integer => H.toList.flatMap decNumeral
  | .character => Config.charPlaceholder

/-- FMT (43_output.md R190): the bytes of OUT at and above OUT_LEN are left unchanged. -/
def execFmt (s : State) : Result :=
  let text := textOf s.smode s.H
  .next (advance { s with out := s.out.writeList 0 text, outLen := BitVec.ofNat 9 text.length })

/-- DIAGP (43_output.md R200). -/
def execDiagp (s : State) : Result :=
  .next (advance (
    if s.sdiag then
      let read := fillDraws s.draws (memReadP s 0 s.plen.toNat)
      emit { s with draws := read.2 } (.padded read.1)
    else s))

/-- DIAGW (43_output.md R202). -/
def execDiagw (s : State) : Result :=
  .next (advance (if s.sdiag then emit s (.schedule s.bp s.W) else s))

end Sys2Proof.Machine
end

