-- ==== Sys2Proof/Machine/Padding.lean ====
section
/-! DEFINITION. The padding stage: PAD (40_padding.md). -/

namespace Sys2Proof.Machine

/-- PAD (40_padding.md R120, R125). -/
def execPad (s : State) : Result :=
  let len := s.msgLen.toNat
  let read := fillDraws s.draws (memReadM s 0 len)
  let plen := BitVec.ofNat 64 (len + 1 + zeroCount len + 8)
  .next (advance { s with
    P := padMessage read.1
    plen := plen
    nblk := plen / 64#64
    bp := 0#64
    draws := read.2 })

end Sys2Proof.Machine
end

