-- ==== Sys2Proof/Machine/Schedule.lean ====
section
/-! DEFINITION. The message schedule expander: LOADW, EXPW (41_schedule.md). -/

namespace Sys2Proof.Machine

/-- LOADW t (41_schedule.md R140). -/
def execLoadw (t : BitVec 8) (s : State) : Result :=
  if h : legalLoadIndex t then
    let read := fillDraws s.draws (memReadP s (64 * s.bp.toNat + 4 * t.toNat) 4)
    .next (advance { s with W := s.W.set t.toNat (be32 read.1) (by omega), draws := read.2 })
  else .refused .illegalOperand

/-- EXPW t (41_schedule.md R142). -/
def execExpw (t : BitVec 8) (s : State) : Result :=
  if h : legalExpandIndex t then
    .next (advance { s with W := s.W.set t.toNat (expandWord s.W t.toNat h) (by omega) })
  else .refused .illegalOperand

end Sys2Proof.Machine
end

