-- ==== Sys2Proof/Machine/Dispatch.lean ====
section
/-! DEFINITION. One arm per instruction. -/

namespace Sys2Proof.Machine

def exec (i : Instr) (s : State) : Host.Outcome State Fault Refusal :=
  match i with
  | .nop => Sys2Proof.Machine.execNop s
  | .digest => Sys2Proof.Machine.execDigest s
  | .setmode m => Sys2Proof.Machine.execSetmode m s
  | .togglediag => Sys2Proof.Machine.execTogglediag s
  | .pad => Sys2Proof.Machine.execPad s
  | .loadw t => Sys2Proof.Machine.execLoadw t s
  | .expw t => Sys2Proof.Machine.execExpw t s
  | .ldiv => Sys2Proof.Machine.execLdiv s
  | .initwv => Sys2Proof.Machine.execInitwv s
  | .round j => Sys2Proof.Machine.execRound j s
  | .ffwd => Sys2Proof.Machine.execFfwd s
  | .loopblk tgt => Sys2Proof.Machine.execLoopblk tgt s
  | .endRun => Sys2Proof.Machine.execEndRun s
  | .fmt => Sys2Proof.Machine.execFmt s
  | .diagp => Sys2Proof.Machine.execDiagp s
  | .diagw => Sys2Proof.Machine.execDiagw s
  | .rd32 off => Sys2Proof.Machine.execRd32 off s
  | .wr32 off v => Sys2Proof.Machine.execWr32 off v s
  | .rd8 off => Sys2Proof.Machine.execRd8 off s
  | .wr8 off v => Sys2Proof.Machine.execWr8 off v s

end Sys2Proof.Machine
end

