-- ==== Sys2Proof/Machine/Fetch.lean ====
section
/-! DEFINITION. What the next step is: whose turn it is, and the instruction that agent's step performs (20_memory.md
R73, 44_control.md R227). -/

namespace Sys2Proof.Machine

/-- What a step does. -/
inductive Action where
  /-- no agent has a step: nothing changes -/
  | idle (s : State)
  /-- perform the instruction in the state -/
  | run (i : Instr) (s : State)
  /-- the reset input -/
  | reset (s : State)
  | fault (r : Fault)
  | refuse (r : Refusal)
  deriving DecidableEq, Repr

/-- The core's turn (44_control.md R227): while BUSY = 1 it reads UPROG[upc] and decodes it; while BUSY = 0 it has no
step (log 4). -/
def coreAction (s : State) : Action :=
  if s.busy then
    match uprogWord s.upc with
    | none => .fault .upcOutsideMicroProgram
    | some w =>
      match decodeCommand w with
      | .ok i => .run i s
      | .error _ => .refuse .illegalMicroWord
  else .idle s

/-- The host's turn: the transaction is decoded; what is no transaction of 30_encoding.md R91 is refused (log 19). -/
def hostAction (t : BusTxn) (s : State) : Action :=
  match decodeBus t with
  | .ok i => .run i s
  | .error _ => .refuse .malformedTransaction

/-- The next step: the head of the pending turns moves; when none is pending the host is silent and the core moves
(log 1). -/
def nextAction (s : State) : Action :=
  match s.turns with
  | [] => coreAction s
  | .core :: rest => coreAction { s with turns := rest }
  | .host t :: rest => hostAction t { s with turns := rest }
  | .reset :: rest => .reset { s with turns := rest }

/-- Make the next turn a host transaction. -/
def placeHostTurn (t : BusTxn) (s : State) : State := { s with turns := .host t :: s.turns }

/-- The state in which the next step runs an encoded instruction (log 20). A transaction is the host's next turn. A
command word that UPROG holds is run by the sequencer: BUSY is 1, upc is the word's first address, and it is the core's
turn. Every other command word can only be met as a host write of it to CMD (30_encoding.md R93, R97). -/
def placeEncoded (e : Encoded) (s : State) : State :=
  match e with
  | .bus t => placeHostTurn t s
  | .command w =>
    match uprogAddress w with
    | some a => { s with busy := true, upc := a, turns := .core :: s.turns }
    | none => placeHostTurn ⟨.write, .w32, 0x0000#32, some (w.setWidth 32)⟩ s

/-- `placeEncoded` of an encoded form given as a number; a number that is none leaves the state. -/
def placeBits (s : State) (nbits w : Nat) : State :=
  match encodedOfBits nbits w with
  | some e => placeEncoded e s
  | none => s

end Sys2Proof.Machine
end

