-- ==== Sys2Proof/Machine/Step.lean ====
section
/-! DEFINITION. One step of the machine. -/

namespace Sys2Proof.Machine

/-- One step: the next agent's move (20_memory.md R73, R68). -/
def step (s : State) : Host.Outcome State Fault Refusal :=
  match nextAction s with
  | .idle t => .next t
  | .run i t => exec i t
  | .reset t => .next (resetInput t)
  | .fault r => .fault r
  | .refuse r => .refused r

/-- `s` with the instruction of `nbits` bits `w` placed so that the very next step runs it (log 20). -/
def State.withFetchWord (s : State) (nbits w : Nat) : State := placeBits s nbits w

end Sys2Proof.Machine
end

