-- ==== Sys2Proof/Machine/Reference.lean ====
section
/-! DEFINITION. The stage functions of the spec, as functions of their inputs alone: Schedule (41_schedule.md R145),
Compress (42_compression.md R172) and DigestWords (R174). No step calls them; the claims about whole runs are stated
with them. -/

namespace Sys2Proof.Machine

/-- Block b of a padded buffer: `P[64b .. 64b+63]` (00_scope.md R12). -/
def blockOf (P : List Byte) (b : Nat) : List Byte := (P.drop (64 * b)).take 64

/-- The first `n` words of a block, big-endian (41_schedule.md R140), written over `w`. -/
def loadWords (block : List Byte) : Nat → Vector Word 64 → Vector Word 64
  | 0, w => w
  | n + 1, w => (loadWords block n w).setIfInBounds n (be32 ((block.drop (4 * n)).take 4))

/-- The words 16 .. 15+n derived in ascending order (41_schedule.md R142), written over `w`. -/
def expandWords : Nat → Vector Word 64 → Vector Word 64
  | 0, w => w
  | n + 1, w =>
    let v := expandWords n w
    if h : 16 ≤ 16 + n ∧ 16 + n ≤ 63 then v.set (16 + n) (expandWord v (16 + n) h) (by omega) else v

/-- Schedule(B), the 64-word schedule of a block; it depends on B only (41_schedule.md R145). -/
def scheduleOf (block : List Byte) : Vector Word 64 :=
  expandWords 48 (loadWords block 16 (Vector.replicate 64 0#32))

/-- v_n of 42_compression.md R172: the working variables after rounds 0 .. n-1. -/
def roundsUpTo (W : Vector Word 64) : Nat → WorkVars → WorkVars
  | 0, v => v
  | n + 1, v =>
    if h : n < 64 then roundStep (roundsUpTo W n v) roundConstants[n] W[n] else roundsUpTo W n v

/-- Compress(H, W) (42_compression.md R172). -/
def compress (H : Vector Word 8) (W : Vector Word 64) : Vector Word 8 :=
  feedForward H (roundsUpTo W 64 (workVarsOf H))

/-- The hash state after the first `n` blocks of a padded buffer (42_compression.md R174's fold). -/
def hashAfter (P : List Byte) : Nat → Vector Word 8
  | 0 => initialHash
  | n + 1 => compress (hashAfter P n) (scheduleOf (blockOf P n))

/-- DigestWords(M, L) of a message given as its bytes (42_compression.md R174). -/
def digestWords (msg : List Byte) : Vector Word 8 :=
  hashAfter (padMessage msg) ((padMessage msg).length / 64)

end Sys2Proof.Machine
end

