-- ==== Sys2Proof/Safety.lean ====
section
/-! DEFINITION. The terms the claims use: the invariant of the machine, well-formed turns, and the message a state
holds. -/

namespace Sys2Proof.Machine

/-- The invariant of the machine: 10_state.md R48 and what makes it inductive. -/
structure Inv (s : State) : Prop where
  /-- M and OUT are in canonical form. -/
  msgCanonical : s.M.wf = true
  outCanonical : s.out.wf = true
  /-- M has MAX_MSG_BYTES bytes (R29) and OUT has 256 (R40). -/
  msgInWindow : ∀ c ∈ s.M, c.1 < Config.maxMsgBytes
  outInWindow : ∀ c ∈ s.out, c.1 < 256
  /-- OUT_LEN counts bytes of OUT (R40). -/
  outLenBound : s.outLen.toNat ≤ 256
  /-- Every byte of the valid text has been written (R40; 43_output.md R190). -/
  textWritten : ∀ k : Nat, k < s.outLen.toNat → ∃ b : Byte, s.out.read k = some b
  /-- PLEN is P's length, a multiple of 64, and NBLK = PLEN / 64 (R31, R48). -/
  plenIsLength : s.plen.toNat = s.P.length
  plenMultiple : s.plen.toNat % 64 = 0
  nblkIsBlocks : s.nblk.toNat = s.plen.toNat / 64
  /-- P fits its capacity (R31). -/
  paddedFits : s.P.length ≤ Config.maxMsgBytes + 72
  /-- BUSY = 1 and DONE = 1 never hold at once (R35). -/
  notBusyAndDone : ¬(s.busy = true ∧ s.done = true)
  /-- BP ≤ NBLK (R32, R48). -/
  bpInRange : s.bp.toNat ≤ s.nblk.toNat
  /-- While BUSY = 1, upc addresses a word of UPROG (R33). -/
  upcInRange : s.busy = true → s.upc.toNat ≤ 136
  /-- A run only starts on a message that fits (44_control.md R222), and the core owns MSG_LEN (20_memory.md R75). -/
  messageFits : s.busy = true → s.msgLen.toNat ≤ Config.maxMsgBytes
  /-- After PAD, NBLK ≥ 1 (R48). -/
  padded : s.busy = true → 1 ≤ s.upc.toNat → 1 ≤ s.nblk.toNat
  /-- From PAD to FFWD a block is being processed, so every access of LOADW lies inside P (41_schedule.md R140). -/
  blockInside : s.busy = true → 1 ≤ s.upc.toNat → s.upc.toNat ≤ 133 → s.bp.toNat < s.nblk.toNat

/-- A turn that is the core's step, reset, or a host transaction of 30_encoding.md R91. -/
def Turn.legal : Turn → Prop
  | .core => True
  | .reset => True
  | .host t => ∃ i, decodeBus t = .ok i

/-- The turn a step takes: the head of the pending turns, or the core's when none is pending (log 1). -/
def State.nextTurn (s : State) : Turn := s.turns.headD .core

/-- The turns that the next `k` steps take, in order: the pending ones, then the core's once none is pending, which is
a silent host (log 1). -/
def State.turnsTaken (s : State) (k : Nat) : List Turn :=
  s.turns.take k ++ List.replicate (k - s.turns.length) .core

/-- In the next `k` steps the host makes legal transactions only, no reset occurs, and the core moves `n` times. -/
def State.coreMoves (s : State) (k n : Nat) : Prop :=
  (∀ x ∈ s.turnsTaken k, x.legal ∧ x ≠ .reset) ∧ (s.turnsTaken k).count .core = n

/-- The message window holds `msg` and MSG_LEN is its length: M[0..MSG_LEN−1], every byte written. -/
def State.holdsMessage (s : State) (msg : List Byte) : Prop :=
  s.msgLen.toNat = msg.length ∧ ∀ k : Nat, k < msg.length → s.M.read k = msg[k]?

/-- The first `n` bytes of OUT are `text`. -/
def State.showsText (s : State) (text : List Byte) : Prop :=
  s.outLen.toNat = text.length ∧ ∀ k : Nat, k < text.length → s.out.read k = text[k]?

/-- Run instructions one after the other, stopping at the first that answers no next state. -/
def execAll : List Instr → State → Result
  | [], s => .next s
  | i :: rest, s =>
    match exec i s with
    | .next t => execAll rest t
    | .fault r => .fault r
    | .refused r => .refused r

/-- The diagnostic events a run over a padded buffer of `n` blocks emits (44_control.md R230). -/
def runEvents (P : List Byte) (n : Nat) : List DiagEvent :=
  .padded P :: (List.range n).map fun b => .schedule (BitVec.ofNat 64 b) (scheduleOf (blockOf P b))

/-- The part of the state that a run works on: the core's own registers and buffers, and the message it owns. -/
def State.sameRun (s t : State) : Prop :=
  t.H = s.H ∧ t.wv = s.wv ∧ t.W = s.W ∧ t.M = s.M ∧ t.msgLen = s.msgLen ∧ t.P = s.P ∧ t.plen = s.plen ∧
  t.nblk = s.nblk ∧ t.bp = s.bp ∧ t.upc = s.upc ∧ t.busy = s.busy ∧ t.done = s.done ∧ t.smode = s.smode ∧
  t.sdiag = s.sdiag ∧ t.out = s.out ∧ t.outLen = s.outLen ∧ t.diagStream = s.diagStream

/-- Two states that differ at most in the diagnostics snapshot and the diagnostic stream. -/
def State.sameButDiagnostics (s t : State) : Prop :=
  t = { s with sdiag := t.sdiag, diagStream := t.diagStream }

end Sys2Proof.Machine
end

