-- ==== Sys2Proof/Certificates/Slice0/Obligations.lean ====
section
/-! DEFINITION. The statements for the provers. Each docstring names the rule of the spec it formalises. -/

namespace Sys2Proof.Claims

open Sys2Proof.Machine

/-- A row of the opcode map of 30_encoding.md R93, with R92's legal values of IMM. -/
structure Row where
  matchBits : BitVec 16
  mask : BitVec 16
  lo : Nat
  hi : Nat
  instr : BitVec 8 → Instr

/-- The rows of R93 with the legal IMM of R92 (SETMODE: R94's exception). -/
def opcodeMap : List Row :=
  [⟨0x0000#16, 0xFFFF#16, 0, 0, fun _ => .nop⟩, ⟨0x0100#16, 0xFFFF#16, 0, 0, fun _ => .digest⟩,
   ⟨0x0200#16, 0xFF00#16, 0, 255, .setmode⟩, ⟨0x0300#16, 0xFFFF#16, 0, 0, fun _ => .togglediag⟩] ++
  [⟨0x1000#16, 0xFFFF#16, 0, 0, fun _ => .pad⟩, ⟨0x2000#16, 0xFF00#16, 0, 15, .loadw⟩,
   ⟨0x2100#16, 0xFF00#16, 16, 63, .expw⟩, ⟨0x3000#16, 0xFFFF#16, 0, 0, fun _ => .ldiv⟩] ++
  [⟨0x3100#16, 0xFFFF#16, 0, 0, fun _ => .initwv⟩, ⟨0x3200#16, 0xFF00#16, 0, 63, .round⟩,
   ⟨0x3300#16, 0xFFFF#16, 0, 0, fun _ => .ffwd⟩, ⟨0x4000#16, 0xFF00#16, 0, 136, .loopblk⟩] ++
  [⟨0x4F00#16, 0xFFFF#16, 0, 0, fun _ => .endRun⟩, ⟨0x5000#16, 0xFFFF#16, 0, 0, fun _ => .fmt⟩,
   ⟨0x5100#16, 0xFFFF#16, 0, 0, fun _ => .diagp⟩, ⟨0x5200#16, 0xFFFF#16, 0, 0, fun _ => .diagw⟩]

/-- The first 64 primes, in order. -/
def firstPrimes : List Nat :=
  [2, 3, 5, 7, 11, 13, 17, 19, 23, 29, 31, 37, 41, 43, 47, 53] ++
  [59, 61, 67, 71, 73, 79, 83, 89, 97, 101, 103, 107, 109, 113, 127, 131] ++
  [137, 139, 149, 151, 157, 163, 167, 173, 179, 181, 191, 193, 197, 199, 211, 223] ++
  [227, 229, 233, 239, 241, 251, 257, 263, 269, 271, 277, 281, 283, 293, 307, 311]

/-- The eight working variables in the order a, …, h (42_compression.md R170's v0 .. v7). -/
def lanes (v : WorkVars) : List Word := [v.a, v.b, v.c, v.d, v.e, v.f, v.g, v.h]

/-- The number a sequence of ASCII digits `0`..`9` stands for in a base, most significant digit first. -/
def numeralValue (base : Nat) (text : List Byte) : Nat :=
  text.foldl (fun n c => n * base + (c.toNat - 0x30)) 0

/-- The big-endian bytes of a 64-bit number, most significant first, by division. -/
def bytesOf64 (n : Nat) : List Byte := (List.range 8).map fun k => BitVec.ofNat 8 (n / 256 ^ (7 - k))

/-- The offset of the host register Hj: 0x020 + 4·j (20_memory.md R64). -/
def hashOffset (j : Nat) : BitVec 32 := BitVec.ofNat 32 (0x20 + 4 * j)

/-- A register offset that is not aligned (20_memory.md R65). -/
def misalignedRegister (off : BitVec 32) : Prop :=
  (off.toNat < 0x14 ∨ (0x20 ≤ off.toNat ∧ off.toNat < 0x40)) ∧ off.toNat % 4 ≠ 0

/-- A register offset, aligned or not (44_control.md R236). -/
def registerOffset (off : BitVec 32) : Prop := off.toNat < 0x14 ∨ (0x20 ≤ off.toNat ∧ off.toNat < 0x40)

/-- An offset inside the OUT window (20_memory.md R64). -/
def inOutWindow (off : BitVec 32) : Prop := 0x100 ≤ off.toNat ∧ off.toNat < 0x200

/-- An offset inside the MSG window (20_memory.md R64). -/
def inMsgWindow (off : BitVec 32) : Prop := 0x10000 ≤ off.toNat ∧ off.toNat < 0x10000 + Config.maxMsgBytes

/-- A reserved offset (20_memory.md R64). -/
def reservedOffset (off : BitVec 32) : Prop :=
  (0x14 ≤ off.toNat ∧ off.toNat < 0x20) ∨ (0x40 ≤ off.toNat ∧ off.toNat < 0x100) ∨
  (0x200 ≤ off.toNat ∧ off.toNat < 0x10000) ∨ 0x10000 + Config.maxMsgBytes ≤ off.toNat

/-- `s` after a rejected access that returns nothing (44_control.md R224). -/
def rejected (s : State) : State := { s with cmdErr := true }

/-- `s` after a host read that returned `v`. -/
def answered (s : State) (v : BusRead) : State := { s with hostReads := s.hostReads ++ [v] }

/-- A host write of `v` to CMD, as the next turn. -/
def cmdWrite (v : Word) : Turn := .host ⟨.write, .w32, 0x0000#32, some v⟩

/-- The encoding and the issuer that an instruction's rule gives it: the command word `w`, issued by `who`. -/
def encodedAs (i : Instr) (w : CmdWord) (who : Issuer) : Prop :=
  decodeCommand w = .ok i ∧ encode i = .command w ∧ i.issuer = who

/-- NBLK of a message of `len` bytes: floor((L + 8) / 64) + 1 (40_padding.md R123). -/
def blockCount (len : Nat) : Nat := (len + 8) / 64 + 1

end Sys2Proof.Claims

open Sys2Proof Sys2Proof.Machine Sys2Proof.Claims

/-! ### Encoding -/

/-- Decoding the encoding of a well-formed instruction gives it back (30_encoding.md R90 to R94, R91). -/
def Obligations.DecodeOfEncodeIsTheInstruction : Prop :=
  ∀ i : Instr, i.wf = true → decode (encode i) = .ok i

/-- Every encoded form has at most one meaning: what decodes is well formed and encodes to the form it came from
(30_encoding.md R94, R91). -/
def Obligations.EncodeOfDecodeIsTheForm : Prop :=
  ∀ (e : Encoded) (i : Instr), decode e = .ok i → i.wf = true ∧ encode i = e

/-- 30_encoding.md R94: a word decodes to a row of the opcode map exactly when it matches that row and its IMM is one
of the row's legal values; every other word is illegal. -/
def Obligations.DecoderFollowsTheOpcodeMap : Prop :=
  ∀ (w : CmdWord) (i : Instr),
    decodeCommand w = .ok i ↔
      ∃ r ∈ opcodeMap, w &&& r.mask = r.matchBits ∧ r.lo ≤ w.toNat % 256 ∧ w.toNat % 256 ≤ r.hi ∧
        i = r.instr (w.setWidth 8)

/-- Words written out from R93, and words R95 calls illegal (sanity). -/
def Obligations.WrittenOutWordsDecode : Prop :=
  decodeCommand 0b0000000100000000#16 = .ok .digest ∧
  decodeCommand 0b0000001000000011#16 = .ok (.setmode 3#8) ∧
  decodeCommand 0b0010000000001111#16 = .ok (.loadw 15#8) ∧
  decodeCommand 0b0010000100010000#16 = .ok (.expw 16#8) ∧
  decodeCommand 0b0011001000111111#16 = .ok (.round 63#8) ∧
  decodeCommand 0b0100000000000011#16 = .ok (.loopblk 3#8) ∧
  decodeCommand 0b0100111100000000#16 = .ok .endRun ∧
  decodeCommand 0b0101001000000000#16 = .ok .diagw ∧
  decodeCommand 0x2010#16 = .error .illegalOperand ∧
  decodeCommand 0x0101#16 = .error .illegalOperand ∧
  decodeCommand 0x4100#16 = .error .reservedFunc ∧
  decodeCommand 0x6000#16 = .error .reservedUnit

/-- 44_control.md R229: the operation at every micro-program address, and none above 136. -/
def Obligations.MicroProgramTable : Prop :=
  (uprogWord 0#8).map decodeCommand = some (.ok .pad) ∧
  (uprogWord 1#8).map decodeCommand = some (.ok .diagp) ∧
  (uprogWord 2#8).map decodeCommand = some (.ok .ldiv) ∧
  (∀ t : Nat, t < 16 → (uprogWord (BitVec.ofNat 8 (3 + t))).map decodeCommand = some (.ok (.loadw (BitVec.ofNat 8 t)))) ∧
  (∀ t : Nat, 16 ≤ t → t < 64 →
    (uprogWord (BitVec.ofNat 8 (3 + t))).map decodeCommand = some (.ok (.expw (BitVec.ofNat 8 t)))) ∧
  (uprogWord 67#8).map decodeCommand = some (.ok .diagw) ∧
  (uprogWord 68#8).map decodeCommand = some (.ok .initwv) ∧
  (∀ t : Nat, t < 64 →
    (uprogWord (BitVec.ofNat 8 (69 + t))).map decodeCommand = some (.ok (.round (BitVec.ofNat 8 t)))) ∧
  (uprogWord 133#8).map decodeCommand = some (.ok .ffwd) ∧
  (uprogWord 134#8).map decodeCommand = some (.ok (.loopblk 3#8)) ∧
  (uprogWord 135#8).map decodeCommand = some (.ok .fmt) ∧
  (uprogWord 136#8).map decodeCommand = some (.ok .endRun) ∧
  (∀ a : BitVec 8, 137 ≤ a.toNat → uprogWord a = none)

/-! ### The step -/

/-- 44_control.md R227: while BUSY = 1 the core's step performs UPROG[upc]; while BUSY = 0 it has no step; a host step
is enabled at every time and performs its transaction. The turn that moves is the head of the pending turns, or the
core's when none is pending (the model's choice, log 1; the idle step of log 4). -/
def Obligations.StepRunsTheDecodedInstruction : Prop :=
  (∀ (s : State) (w : CmdWord) (i : Instr),
    s.busy = true → s.turns = [] → uprogWord s.upc = some w → decodeCommand w = .ok i → step s = exec i s) ∧
  (∀ (s : State) (rest : List Turn) (w : CmdWord) (i : Instr),
    s.busy = true → s.turns = .core :: rest → uprogWord s.upc = some w → decodeCommand w = .ok i →
    step s = exec i { s with turns := rest }) ∧
  (∀ s : State, s.busy = false → s.turns = [] → step s = .next s) ∧
  (∀ (s : State) (rest : List Turn), s.busy = false → s.turns = .core :: rest →
    step s = .next { s with turns := rest }) ∧
  (∀ (s : State) (rest : List Turn) (t : BusTxn) (i : Instr), s.turns = .host t :: rest → decodeBus t = .ok i →
    step s = exec i { s with turns := rest })

/-- 70_reset_and_hazards.md R290: the values the spec gives for the state after reset. -/
def Obligations.ResetStateValues : Prop :=
  State.reset.busy = false ∧ State.reset.done = false ∧ State.reset.cmdErr = false ∧
  modeCode State.reset.mode = 1#2 ∧ State.reset.diag = false ∧ State.reset.msgLen = 0#32 ∧
  State.reset.outLen = 0#9 ∧ State.reset.plen = 0#64 ∧ State.reset.nblk = 0#64 ∧ State.reset.bp = 0#64 ∧
  State.reset.upc = 0#8 ∧ State.reset.P = [] ∧ State.reset.diagStream = []

/-- 70_reset_and_hazards.md R291: reset may occur in any state, and puts every item of R290 to its reset value. The
items whose value the spec leaves unspecified are not constrained here (log 12). -/
def Obligations.ResetInputAbandonsTheRun : Prop :=
  ∀ (s : State) (rest : List Turn), s.turns = .reset :: rest →
    ∃ t, step s = .next t ∧ t.turns = rest ∧
      t.busy = false ∧ t.done = false ∧ t.cmdErr = false ∧ modeCode t.mode = 1#2 ∧ t.diag = false ∧
      t.msgLen = 0#32 ∧ t.outLen = 0#9 ∧ t.plen = 0#64 ∧ t.nblk = 0#64 ∧ t.bp = 0#64 ∧ t.upc = 0#8 ∧
      t.P = [] ∧ t.diagStream = []

/-! ### The padding stage -/

/-- 40_padding.md R120: PAD on a message every byte of which the host has written. `z` is the number with the property
of R122. Everything else is unchanged. The word is 0x1000, of the sequencer only. -/
def Obligations.PadBuildsThePaddedBuffer : Prop :=
  encodedAs .pad 0x1000#16 .sequencer ∧
  ∀ (s : State) (msg : List Byte) (z : Nat), s.holdsMessage msg → z < 64 → (msg.length + 1 + z) % 64 = 56 →
    exec .pad s = .next { s with
      P := msg ++ [0x80#8] ++ List.replicate z 0#8 ++ bytesOf64 (8 * msg.length % 2 ^ 64)
      plen := BitVec.ofNat 64 (msg.length + 1 + z + 8)
      nblk := BitVec.ofNat 64 ((msg.length + 1 + z + 8) / 64)
      bp := 0#64
      upc := s.upc + 1#8 }

/-- 40_padding.md R126 and R125: PAD completes for every legal MSG_LEN. That it completes above MAX_MSG_BYTES as well
(log 16), and that bytes the host has left unwritten are free values (logs 3 and 7), are the model's choice. After
PAD, PLEN is a positive multiple of 64, the message's bytes stand first, then 0x80, and the last 8 bytes are the
big-endian bit-length. Nothing but P, PLEN, NBLK, BP, upc and the draw counter changes. -/
def Obligations.PadCompletesWithThePaddingInvariant : Prop :=
  ∀ s : State, ∃ t, exec .pad s = .next t ∧
    t = { s with P := t.P, plen := t.plen, nblk := t.nblk, bp := 0#64, upc := s.upc + 1#8, draws := t.draws } ∧
    t.P.length = t.plen.toNat ∧ 64 ≤ t.plen.toNat ∧ t.plen.toNat % 64 = 0 ∧
    (∀ (k : Nat) (b : Byte), k < s.msgLen.toNat → s.M.read k = some b → t.P[k]? = some b) ∧
    t.P[s.msgLen.toNat]? = some 0x80#8 ∧
    t.P.drop (t.plen.toNat - 8) = bytesOf64 (8 * s.msgLen.toNat % 2 ^ 64)

/-- 40_padding.md R123: PLEN = L + 9 + z, NBLK = floor((L + 8) / 64) + 1, and the length field needs a block after the
one that holds the 0x80 byte exactly when L mod 64 is 56..63. -/
def Obligations.PadBlockCount : Prop :=
  ∀ s : State, ∃ t, exec .pad s = .next t ∧
    t.plen.toNat = s.msgLen.toNat + 9 + (55 + 64 - s.msgLen.toNat % 64) % 64 ∧
    0 < t.plen.toNat ∧ t.plen.toNat % 64 = 0 ∧
    t.nblk.toNat = (s.msgLen.toNat + 8) / 64 + 1 ∧
    (s.msgLen.toNat % 64 ≤ 55 → t.nblk.toNat = s.msgLen.toNat / 64 + 1) ∧
    (56 ≤ s.msgLen.toNat % 64 → t.nblk.toNat = s.msgLen.toNat / 64 + 2)

/-- 40_padding.md R122: z is the least number of zero bytes with (L + 1 + z) ≡ 56 (mod 64); it is 0 exactly when
L mod 64 = 55 and 63 exactly when L mod 64 = 56. -/
def Obligations.ZeroCountIsLeast : Prop :=
  ∀ len : Nat, (len + 1 + zeroCount len) % 64 = 56 ∧ zeroCount len ≤ 63 ∧
    (∀ z : Nat, (len + 1 + z) % 64 = 56 → zeroCount len ≤ z) ∧
    (zeroCount len = 0 ↔ len % 64 = 55) ∧ (zeroCount len = 63 ↔ len % 64 = 56)

/-! ### The message schedule expander -/

/-- 41_schedule.md R140: LOADW t writes the big-endian word at 64·BP + 4·t of P into W[t] and changes nothing else but
upc. That the four bytes lie inside P, the premise, holds whenever LOADW runs (R140; it is part of `Inv`). The word is
0x2000 | t, of the sequencer only. -/
def Obligations.LoadwLoadsTheBigEndianWord : Prop :=
  ∀ (s : State) (t : BitVec 8), (ht : t.toNat ≤ 15) →
    encodedAs (.loadw t) (0x2000#16 ||| t.setWidth 16) .sequencer ∧
    ∀ (b0 b1 b2 b3 : Byte),
      s.P[64 * s.bp.toNat + 4 * t.toNat]? = some b0 → s.P[64 * s.bp.toNat + 4 * t.toNat + 1]? = some b1 →
      s.P[64 * s.bp.toNat + 4 * t.toNat + 2]? = some b2 → s.P[64 * s.bp.toNat + 4 * t.toNat + 3]? = some b3 →
      ∃ s', exec (.loadw t) s = .next s' ∧ s' = { s with W := s'.W, upc := s.upc + 1#8 } ∧
        (s'.W[t.toNat]'(by omega)).toNat = b0.toNat * 2 ^ 24 + b1.toNat * 2 ^ 16 + b2.toNat * 2 ^ 8 + b3.toNat ∧
        ∀ (j : Nat) (hj : j < 64), j ≠ t.toNat → s'.W[j] = s.W[j]

/-- 41_schedule.md R142: EXPW t, the sum of four words mod 2^32; nothing but W[t] and upc changes. -/
def Obligations.ExpwDerivesTheWord : Prop :=
  ∀ (s : State) (t : BitVec 8), (h16 : 16 ≤ t.toNat) → (h63 : t.toNat ≤ 63) →
    encodedAs (.expw t) (0x2100#16 ||| t.setWidth 16) .sequencer ∧
    ∃ s', exec (.expw t) s = .next s' ∧ s' = { s with W := s'.W, upc := s.upc + 1#8 } ∧
      (s'.W[t.toNat]'(by omega)).toNat =
        ((s.W[t.toNat - 16]'(by omega)).toNat + (sigma0 (s.W[t.toNat - 15]'(by omega))).toNat +
          (s.W[t.toNat - 7]'(by omega)).toNat + (sigma1 (s.W[t.toNat - 2]'(by omega))).toNat) % 2 ^ 32 ∧
      ∀ (j : Nat) (hj : j < 64), j ≠ t.toNat → s'.W[j] = s.W[j]

/-- An operand outside 30_encoding.md R92 is refused, and by no other instruction (93_implementation_defined.md U10;
log 17): no decoded word carries one. -/
def Obligations.IllegalOperandsAreRefused : Prop :=
  ∀ (i : Instr) (s : State), i.wf = false ↔ exec i s = .refused .illegalOperand

/-- 41_schedule.md R145: LOADW 0..15 then EXPW 16..63 leave Schedule(B) of the current block B in W, whatever W held
before, and change nothing else but upc. -/
def Obligations.ScheduleOfTheCurrentBlock : Prop :=
  ∀ s : State, 64 * s.bp.toNat + 64 ≤ s.P.length →
    execAll ((List.range 16).map (fun t => Instr.loadw (BitVec.ofNat 8 t)) ++
      (List.range 48).map (fun t => Instr.expw (BitVec.ofNat 8 (16 + t)))) s =
    .next { s with W := scheduleOf (blockOf s.P s.bp.toNat), upc := s.upc + 64#8 }

/-! ### The compression round engine -/

/-- 00_scope.md R9: `rotr` is the right rotation of a 32-bit word, bit by bit. -/
def Obligations.RotrMovesEveryBit : Prop :=
  ∀ (x : Word) (n : Nat), 0 < n → n < 32 → ∀ j : Nat, j < 32 → (rotr x n).getLsbD j = x.getLsbD ((j + n) % 32)

/-- 00_scope.md R11: the six functions of the core, bit by bit: a rotation by n moves bit (j + n) mod 32 to bit j, and
a shift by n moves bit j + n to bit j. -/
def Obligations.CoreFunctionsBitByBit : Prop :=
  ∀ (x y z : Word) (j : Nat), j < 32 →
    (sigma0 x).getLsbD j = ((x.getLsbD ((j + 7) % 32) ^^ x.getLsbD ((j + 18) % 32)) ^^ x.getLsbD (j + 3)) ∧
    (sigma1 x).getLsbD j = ((x.getLsbD ((j + 17) % 32) ^^ x.getLsbD ((j + 19) % 32)) ^^ x.getLsbD (j + 10)) ∧
    (bigSigma1 x).getLsbD j =
      ((x.getLsbD ((j + 6) % 32) ^^ x.getLsbD ((j + 11) % 32)) ^^ x.getLsbD ((j + 25) % 32)) ∧
    (bigSigma0 x).getLsbD j =
      ((x.getLsbD ((j + 2) % 32) ^^ x.getLsbD ((j + 13) % 32)) ^^ x.getLsbD ((j + 22) % 32)) ∧
    (ch x y z).getLsbD j = (if x.getLsbD j then y.getLsbD j else z.getLsbD j) ∧
    (maj x y z).getLsbD j =
      ((x.getLsbD j && y.getLsbD j) || (x.getLsbD j && z.getLsbD j) || (y.getLsbD j && z.getLsbD j))

/-- 10_state.md R22 and R24: K[i] is the first 32 bits of the fractional part of the cube root of the (i+1)-th prime,
and IV[j] of the square root of the (j+1)-th prime. -/
def Obligations.ConstantsComeFromThePrimes : Prop :=
  (∀ n : Nat, n ≤ 311 → (n.Prime ↔ n ∈ firstPrimes)) ∧ firstPrimes.Pairwise (· < ·) ∧
  (∀ (i : Fin 64) (p : Nat), firstPrimes[i.val]? = some p →
    ∃ r : Nat, r ^ 3 ≤ p * 2 ^ 96 ∧ p * 2 ^ 96 < (r + 1) ^ 3 ∧ roundConstants[i].toNat = r % 2 ^ 32) ∧
  (∀ (j : Fin 8) (p : Nat), firstPrimes[j.val]? = some p →
    ∃ r : Nat, r ^ 2 ≤ p * 2 ^ 64 ∧ p * 2 ^ 64 < (r + 1) ^ 2 ∧ initialHash[j].toNat = r % 2 ^ 32)

/-- 42_compression.md R162 and R164: LDIV writes IV (10_state.md R24) into H, and INITWV copies H into a..h. -/
def Obligations.LdivAndInitwvCopyTheHashState : Prop :=
  encodedAs .ldiv 0x3000#16 .sequencer ∧ encodedAs .initwv 0x3100#16 .sequencer ∧
  (∀ s : State, exec .ldiv s = .next { s with
    H := #v[0x6A09E667#32, 0xBB67AE85#32, 0x3C6EF372#32, 0xA54FF53A#32,
            0x510E527F#32, 0x9B05688C#32, 0x1F83D9AB#32, 0x5BE0CD19#32]
    upc := s.upc + 1#8 }) ∧
  (∀ s : State, ∃ t, exec .initwv s = .next t ∧ t = { s with wv := t.wv, upc := s.upc + 1#8 } ∧
    ∀ j : Fin 8, (lanes t.wv)[j.val]? = some s.H[j])

/-- 42_compression.md R166: ROUND i, every sum mod 2^32, every right-hand side read before the round. -/
def Obligations.RoundUpdatesTheWorkingVariables : Prop :=
  ∀ (s : State) (i : BitVec 8), (hi : i.toNat ≤ 63) →
    encodedAs (.round i) (0x3200#16 ||| i.setWidth 16) .sequencer ∧
    ∃ t, exec (.round i) s = .next t ∧ t = { s with wv := t.wv, upc := s.upc + 1#8 } ∧
      ∀ temp1 temp2 : Nat,
        temp1 = (s.wv.h.toNat + (bigSigma1 s.wv.e).toNat + (ch s.wv.e s.wv.f s.wv.g).toNat +
          (roundConstants[i.toNat]'(by omega)).toNat + (s.W[i.toNat]'(by omega)).toNat) % 2 ^ 32 →
        temp2 = ((bigSigma0 s.wv.a).toNat + (maj s.wv.a s.wv.b s.wv.c).toNat) % 2 ^ 32 →
        t.wv.a.toNat = (temp1 + temp2) % 2 ^ 32 ∧ t.wv.e.toNat = (s.wv.d.toNat + temp1) % 2 ^ 32 ∧
        t.wv.b = s.wv.a ∧ t.wv.c = s.wv.b ∧ t.wv.d = s.wv.c ∧
        t.wv.f = s.wv.e ∧ t.wv.g = s.wv.f ∧ t.wv.h = s.wv.g

/-- 42_compression.md R170: FFWD adds lane by lane mod 2^32 and advances BP. -/
def Obligations.FfwdAddsLaneByLane : Prop :=
  encodedAs .ffwd 0x3300#16 .sequencer ∧
  ∀ s : State, ∃ t, exec .ffwd s = .next t ∧
    t = { s with H := t.H, bp := s.bp + 1#64, upc := s.upc + 1#8 } ∧
    ∀ (j : Fin 8) (v : Word), (lanes s.wv)[j.val]? = some v → t.H[j].toNat = (s.H[j].toNat + v.toNat) % 2 ^ 32

/-- 42_compression.md R172: INITWV, ROUND 0..63, FFWD leave Compress(H, W) in H; BP is advanced, a..h are the working
variables after round 63, and nothing else but upc changes. -/
def Obligations.CompressionOfTheCurrentBlock : Prop :=
  ∀ s : State,
    execAll (Instr.initwv :: (List.range 64).map (fun i => Instr.round (BitVec.ofNat 8 i)) ++ [Instr.ffwd]) s =
    .next { s with
      H := compress s.H s.W, wv := roundsUpTo s.W 64 (workVarsOf s.H), bp := s.bp + 1#64, upc := s.upc + 66#8 }

/-! ### The output formatter -/

/-- 43_output.md R190: FMT writes the text of the snapshot mode to OUT[0..OUT_LEN−1], leaves every byte of OUT at and
above OUT_LEN, and changes nothing else. -/
def Obligations.FmtWritesTheText : Prop :=
  encodedAs .fmt 0x5000#16 .sequencer ∧
  ∀ s : State, ∃ t, exec .fmt s = .next t ∧
    t = { s with out := t.out, outLen := t.outLen, upc := s.upc + 1#8 } ∧
    t.showsText (textOf s.smode s.H) ∧
    ∀ k : Nat, (textOf s.smode s.H).length ≤ k → t.out.read k = s.out.read k

/-- 43_output.md R191: the Hexadecimal text has 64 characters; character 8j + k is the capital hexadecimal digit of
bits 31−4k : 28−4k of H[j]. -/
def Obligations.HexTextIsSixtyFourDigits : Prop :=
  ∀ H : Vector Word 8, (textOf .hexadecimal H).length = 64 ∧
    ∀ (j : Fin 8) (k : Fin 8) (d : Nat), d = H[j].toNat / 16 ^ (7 - k.val) % 16 →
      (textOf .hexadecimal H)[8 * j.val + k.val]? = some (BitVec.ofNat 8 (if d < 10 then 0x30 + d else 0x37 + d))

/-- 43_output.md R192: the Binary text is the eight binary numerals concatenated; a numeral has floor(log2 x) + 1
digits for x > 0 and is "0" for x = 0, its digits are `0` and `1`, and it stands for x. -/
def Obligations.BinaryTextOfNumerals : Prop :=
  ∀ H : Vector Word 8,
    textOf .binary H = binNumeral H[0] ++ binNumeral H[1] ++ binNumeral H[2] ++ binNumeral H[3] ++
      binNumeral H[4] ++ binNumeral H[5] ++ binNumeral H[6] ++ binNumeral H[7] ∧
    8 ≤ (textOf .binary H).length ∧ (textOf .binary H).length ≤ 256 ∧
    ∀ x : Word, (binNumeral x).length = (if x = 0#32 then 1 else Nat.log2 x.toNat + 1) ∧
      (∀ c ∈ binNumeral x, c = 0x30#8 ∨ c = 0x31#8) ∧ numeralValue 2 (binNumeral x) = x.toNat

/-- 43_output.md R193: the Integer text is the eight decimal numerals concatenated; a numeral has no leading zero
unless it is "0", its digits are `0`..`9`, and it stands for the word. -/
def Obligations.IntegerTextOfNumerals : Prop :=
  ∀ H : Vector Word 8,
    textOf .integer H = decNumeral H[0] ++ decNumeral H[1] ++ decNumeral H[2] ++ decNumeral H[3] ++
      decNumeral H[4] ++ decNumeral H[5] ++ decNumeral H[6] ++ decNumeral H[7] ∧
    8 ≤ (textOf .integer H).length ∧ (textOf .integer H).length ≤ 80 ∧
    ∀ x : Word, decNumeral x ≠ [] ∧ (∀ c ∈ decNumeral x, 0x30 ≤ c.toNat ∧ c.toNat ≤ 0x39) ∧
      numeralValue 10 (decNumeral x) = x.toNat ∧
      ((decNumeral x).head? = some 0x30#8 → decNumeral x = [0x30#8] ∧ x = 0#32)

/-- 43_output.md R194 with 00_scope.md R7: the Character text is CHAR_PLACEHOLDER, a non-empty ASCII string of at most
256 bytes, for every value of that parameter. -/
def Obligations.CharacterTextIsThePlaceholder : Prop :=
  ∀ H : Vector Word 8, textOf .character H = Config.charPlaceholder ∧ Config.charPlaceholder ≠ [] ∧
    Config.charPlaceholder.length ≤ 256 ∧ ∀ c ∈ Config.charPlaceholder, c.toNat < 128

/-- 43_output.md R200 and R202: with SDIAG = 1 DIAGP emits the padded buffer and DIAGW the block's index and schedule;
with SDIAG = 0 they change nothing but upc. That P holds PLEN bytes, DIAGP's premise, is part of `Inv`. -/
def Obligations.DiagnosticEventsAreEmitted : Prop :=
  encodedAs .diagp 0x5100#16 .sequencer ∧ encodedAs .diagw 0x5200#16 .sequencer ∧
  (∀ s : State, s.plen.toNat = s.P.length →
    exec .diagp s = .next { s with
      diagStream := if s.sdiag then s.diagStream ++ [.padded s.P] else s.diagStream
      upc := s.upc + 1#8 }) ∧
  (∀ s : State, exec .diagw s = .next { s with
    diagStream := if s.sdiag then s.diagStream ++ [.schedule s.bp s.W] else s.diagStream
    upc := s.upc + 1#8 })

/-- 43_output.md R205 for the whole machine: from two states of the invariant that differ only in SDIAG and DIAGSTREAM,
a step of any agent leads to two states that differ only in those. -/
def Obligations.DiagnosticsNeverChangeTheResult : Prop :=
  ∀ s t : State, Inv s → s.sameButDiagnostics t →
    (∀ s', step s = .next s' → ∃ t', step t = .next t' ∧ s'.sameButDiagnostics t') ∧
    (∀ r, step s = .fault r ↔ step t = .fault r) ∧ (∀ r, step s = .refused r ↔ step t = .refused r)

/-! ### Control, sequencer, commands -/

/-- 44_control.md R221: NOP changes nothing, issued or written to CMD. -/
def Obligations.NopChangesNothing : Prop :=
  encodedAs .nop 0x0000#16 .hostCommand ∧
  ∀ s : State, exec .nop s = .next s ∧ exec (.wr32 0x0000#32 0x0000#32) s = .next s

/-- 44_control.md R222: DIGEST is rejected while BUSY = 1 and for a message over capacity; otherwise it takes the
snapshot and starts the run. -/
def Obligations.DigestStartsARun : Prop :=
  encodedAs .digest 0x0100#16 .hostCommand ∧
  ∀ s : State,
    (s.busy = false → s.msgLen.toNat ≤ Config.maxMsgBytes →
      exec .digest s = .next { s with
        smode := s.mode, sdiag := s.diag, busy := true, done := false, upc := 0#8 }) ∧
    (s.busy = true → exec .digest s = .next (rejected s)) ∧
    (s.busy = false → Config.maxMsgBytes < s.msgLen.toNat → exec .digest s = .next (rejected s))

/-- 44_control.md R225: SETMODE m sets MODE for m ≤ 3 and is rejected otherwise, whatever BUSY is. -/
def Obligations.SetmodeSetsTheMode : Prop :=
  ∀ (s : State) (m : BitVec 8),
    encodedAs (.setmode m) (0x0200#16 ||| m.setWidth 16) .hostCommand ∧
    (m.toNat ≤ 3 → ∃ t, exec (.setmode m) s = .next t ∧ t = { s with mode := t.mode } ∧
      (modeCode t.mode).toNat = m.toNat) ∧
    (4 ≤ m.toNat → exec (.setmode m) s = .next (rejected s))

/-- 44_control.md R226: TOGGLEDIAG flips DIAG and nothing else; two toggles restore it. -/
def Obligations.TogglediagFlipsTheFlag : Prop :=
  encodedAs .togglediag 0x0300#16 .hostCommand ∧
  ∀ s : State, ∃ t, exec .togglediag s = .next t ∧ t = { s with diag := !s.diag } ∧ exec .togglediag t = .next s

/-- 44_control.md R231: LOOPBLK goes to its target while BP < NBLK and on to the next word otherwise. -/
def Obligations.LoopblkLoopsOverTheBlocks : Prop :=
  ∀ (s : State) (tgt : BitVec 8), tgt.toNat ≤ 136 →
    encodedAs (.loopblk tgt) (0x4000#16 ||| tgt.setWidth 16) .sequencer ∧
    exec (.loopblk tgt) s =
      .next { s with upc := if s.bp.toNat < s.nblk.toNat then tgt else s.upc + 1#8 }

/-- 44_control.md R232: END clears BUSY and sets DONE; upc and everything else are unchanged. -/
def Obligations.EndFinishesTheRun : Prop :=
  encodedAs .endRun 0x4F00#16 .sequencer ∧
  ∀ s : State, exec .endRun s = .next { s with busy := false, done := true }

/-- 44_control.md R220: the dispatch of a host write to CMD, in its order: bits 31:16, illegal words, sequencer-only
words, then the command. -/
def Obligations.CommandDispatch : Prop :=
  ∀ (s : State) (v : Word),
    (2 ^ 16 ≤ v.toNat → exec (.wr32 0x0000#32 v) s = .next (rejected s)) ∧
    (v.toNat < 2 ^ 16 →
      (∀ e, decodeCommand (v.setWidth 16) = .error e → exec (.wr32 0x0000#32 v) s = .next (rejected s)) ∧
      (∀ i, decodeCommand (v.setWidth 16) = .ok i → i.issuer = .sequencer →
        exec (.wr32 0x0000#32 v) s = .next (rejected s)) ∧
      (∀ i, decodeCommand (v.setWidth 16) = .ok i → i.issuer = .hostCommand →
        exec (.wr32 0x0000#32 v) s = exec i s))

/-! ### Host bus transactions -/

/-- 44_control.md R234: the table of RD32 where the result is specified. A read changes nothing but the record of what
it returned, and CMD_ERR where it is rejected. -/
def Obligations.Rd32SpecifiedResults : Prop :=
  ∀ s : State,
    exec (.rd32 0x0000#32) s = .next (answered s (.word 0#32)) ∧
    (∃ v : Word, exec (.rd32 0x0004#32) s = .next (answered s (.word v)) ∧
      v.toNat = s.busy.toNat + 2 * s.done.toNat + 4 * s.cmdErr.toNat) ∧
    (∃ v : Word, exec (.rd32 0x0008#32) s = .next (answered s (.word v)) ∧
      v.toNat = (modeCode s.mode).toNat + 4 * s.diag.toNat) ∧
    (s.busy = false → ∃ v : Word, exec (.rd32 0x000C#32) s = .next (answered s (.word v)) ∧
      v.toNat = s.outLen.toNat) ∧
    exec (.rd32 0x0010#32) s = .next (answered s (.word s.msgLen)) ∧
    (s.busy = false → s.done = true → ∀ j : Fin 8,
      exec (.rd32 (hashOffset j.val)) s = .next (answered s (.word s.H[j]))) ∧
    (∀ off : BitVec 32, misalignedRegister off ∨ inOutWindow off ∨ inMsgWindow off →
      exec (.rd32 off) s = .next (answered (rejected s) (.word 0#32)))

/-- 10_state.md R44 with R26: a read of OUT_LEN or H0..H7 while BUSY = 1, of H0..H7 before the first completed DIGEST,
of OUT while BUSY = 1 or at or above OUT_LEN, completes with some value and no side effect. Which value is free: the
statement fixes none. -/
def Obligations.UnspecifiedReadsHaveNoSideEffect : Prop :=
  ∀ s : State,
    (s.busy = true → ∃ v t, exec (.rd32 0x000C#32) s = .next t ∧ { t with draws := s.draws } = answered s (.word v)) ∧
    (s.busy = true ∨ s.done = false → ∀ j : Fin 8, ∃ v t, exec (.rd32 (hashOffset j.val)) s = .next t ∧
      { t with draws := s.draws } = answered s (.word v)) ∧
    (∀ off : BitVec 32, inOutWindow off → (s.busy = true ∨ s.outLen.toNat ≤ off.toNat - 0x100) →
      ∃ v t, exec (.rd8 off) s = .next t ∧ { t with draws := s.draws } = answered s (.byte v))

/-- 44_control.md R235: the table of WR32 but for CMD (see `CommandDispatch`). -/
def Obligations.Wr32Table : Prop :=
  ∀ (s : State) (v : Word),
    exec (.wr32 0x0004#32 v) s = .next { s with cmdErr := s.cmdErr && !v.getLsbD 2 } ∧
    (s.busy = false → exec (.wr32 0x0010#32 v) s = .next { s with msgLen := v }) ∧
    (s.busy = true → exec (.wr32 0x0010#32 v) s = .next (rejected s)) ∧
    exec (.wr32 0x0008#32 v) s = .next (rejected s) ∧
    exec (.wr32 0x000C#32 v) s = .next (rejected s) ∧
    (∀ j : Fin 8, exec (.wr32 (hashOffset j.val) v) s = .next (rejected s)) ∧
    (∀ off : BitVec 32, misalignedRegister off ∨ inOutWindow off ∨ inMsgWindow off →
      exec (.wr32 off v) s = .next (rejected s))

/-- 44_control.md R236: RD8 of the MSG window at any time, of the OUT window below OUT_LEN while BUSY = 0, and its
rejection at a register offset. In a state of the invariant every byte of OUT below OUT_LEN has been written. The
record of what is returned and the free bytes are the model's (logs 2, 3, 7). -/
def Obligations.Rd8SpecifiedResults : Prop :=
  ∀ (s : State) (off : BitVec 32),
    (inMsgWindow off → ∀ b : Byte, s.M.read (off.toNat - 0x10000) = some b →
      exec (.rd8 off) s = .next (answered s (.byte b))) ∧
    (inMsgWindow off → s.M.read (off.toNat - 0x10000) = none → ∃ b t, exec (.rd8 off) s = .next t ∧
      { t with draws := s.draws } = answered s (.byte b)) ∧
    (inOutWindow off → s.busy = false → off.toNat - 0x100 < s.outLen.toNat → ∀ b : Byte,
      s.out.read (off.toNat - 0x100) = some b → exec (.rd8 off) s = .next (answered s (.byte b))) ∧
    (Inv s → inOutWindow off → s.busy = false → off.toNat - 0x100 < s.outLen.toNat → ∃ b : Byte,
      s.out.read (off.toNat - 0x100) = some b ∧ exec (.rd8 off) s = .next (answered s (.byte b))) ∧
    (registerOffset off → exec (.rd8 off) s = .next (answered (rejected s) (.byte 0#8)))

/-- 44_control.md R237 with 20_memory.md R75: WR8 of the MSG window stores its byte while BUSY = 0, leaving every other
byte of M and all other state; while BUSY = 1 it is rejected; so is a write at every other offset: the OUT window, a register, a reserved offset. -/
def Obligations.Wr8StoresTheByte : Prop :=
  ∀ (s : State) (off : BitVec 32) (v : Byte),
    (inMsgWindow off → s.busy = false → ∃ t, exec (.wr8 off v) s = .next t ∧ t = { s with M := t.M } ∧
      t.M.read (off.toNat - 0x10000) = some v ∧
      ∀ k : Nat, k ≠ off.toNat - 0x10000 → t.M.read k = s.M.read k) ∧
    (inMsgWindow off → s.busy = true → exec (.wr8 off v) s = .next (rejected s)) ∧
    (inOutWindow off ∨ registerOffset off ∨ reservedOffset off → exec (.wr8 off v) s = .next (rejected s))

/-- 20_memory.md R70 with R65: at a reserved offset a host read returns 0 and a host write is rejected, at either width.
That the returned value is recorded is the model's (log 2), and so is that a 32-bit access which begins at a reserved
offset and reaches into a defined range follows R70 (log 13). -/
def Obligations.ReservedOffsets : Prop :=
  ∀ (s : State) (off : BitVec 32), reservedOffset off →
    exec (.rd32 off) s = .next (answered s (.word 0#32)) ∧ exec (.rd8 off) s = .next (answered s (.byte 0#8)) ∧
    (∀ v, exec (.wr32 off v) s = .next (rejected s)) ∧ (∀ v, exec (.wr8 off v) s = .next (rejected s))

/-! ### Memory -/

/-- Reading a byte after a write gives the byte written there and the old byte everywhere else, and the write keeps the
canonical form. -/
def Obligations.MemoryReadAfterWrite : Prop :=
  ∀ (m : Memory) (k : Nat) (v : Byte), m.wf = true →
    (m.write k v).wf = true ∧ (m.write k v).read k = some v ∧ ∀ j : Nat, j ≠ k → (m.write k v).read j = m.read j

/-- Two buffers in canonical form that read alike are the same data. -/
def Obligations.CanonicalMemoriesAreEqual : Prop :=
  ∀ m n : Memory, m.wf = true → n.wf = true → (∀ k : Nat, m.read k = n.read k) → m = n

/-! ### Invariants and rules of the whole machine

The steps are those of the model's list of turns: which agent moves, and that reset is a turn, is the model's form of an
interleaving (logs 1 and 12), and a core turn while BUSY = 0 is an idle step (log 4). -/

/-- The reset state meets the invariant (70_reset_and_hazards.md R290). -/
def Obligations.InvariantHoldsAtReset : Prop := Inv State.reset

/-- 10_state.md R48: every step of the machine keeps the invariant. -/
def Obligations.EveryStepKeepsTheInvariant : Prop :=
  ∀ s t : State, Inv s → step s = .next t → Inv t

/-- In every state of the invariant every step completes. 60_exceptions.md R260 says so of the core's micro-operations.
That a core turn while BUSY = 0 answers a next state (log 4; 44_control.md R227 gives the core no step then), and that the
agents' moves and reset are turns of a list (logs 1 and 12), are the model's. -/
def Obligations.EveryStepCompletes : Prop :=
  ∀ s : State, Inv s → s.nextTurn.legal → ∃ t, step s = .next t

/-- 20_memory.md R75 and 10_state.md R29: while BUSY = 1 no step but reset changes M or MSG_LEN; at any time only a host
write of a MSG window byte changes M. -/
def Obligations.TheMessageIsOwnedByTheCore : Prop :=
  ∀ s t : State, step s = .next t → s.nextTurn ≠ .reset →
    (s.busy = true → t.M = s.M ∧ t.msgLen = s.msgLen) ∧
    (t.M ≠ s.M → ∃ x off, s.nextTurn = .host x ∧ x.kind = .write ∧ x.width = .w8 ∧ x.offset = off ∧ inMsgWindow off)

/-- 10_state.md R36: MODE changes only through SETMODE, and DIAG only through TOGGLEDIAG (reset apart). -/
def Obligations.ConfigurationChangesOnlyByCommand : Prop :=
  ∀ s t : State, step s = .next t → s.nextTurn ≠ .reset →
    (t.mode ≠ s.mode → ∃ m : BitVec 8, m.toNat ≤ 3 ∧ s.nextTurn = cmdWrite (BitVec.ofNat 32 (0x200 + m.toNat))) ∧
    (t.diag ≠ s.diag → s.nextTurn = cmdWrite 0x0300#32)

/-- 10_state.md R39: the snapshot changes only when DIGEST is accepted, and is then MODE and DIAG. -/
def Obligations.SnapshotOnlyAtAcceptance : Prop :=
  ∀ s t : State, step s = .next t → s.nextTurn ≠ .reset → (t.smode ≠ s.smode ∨ t.sdiag ≠ s.sdiag) →
    s.nextTurn = cmdWrite 0x0100#32 ∧ s.busy = false ∧ t.busy = true ∧ t.smode = s.mode ∧ t.sdiag = s.diag

/-- 44_control.md R224: CMD_ERR stays 1 until the host clears it (or reset). -/
def Obligations.CmdErrIsSticky : Prop :=
  ∀ s t : State, step s = .next t → s.cmdErr = true → t.cmdErr = false →
    s.nextTurn = .reset ∨ ∃ v : Word, v.getLsbD 2 = true ∧ s.nextTurn = .host ⟨.write, .w32, 0x0004#32, some v⟩

/-- 10_state.md R41: no step but reset removes an event from DIAGSTREAM. -/
def Obligations.DiagStreamOnlyGrows : Prop :=
  ∀ s t : State, step s = .next t → s.nextTurn ≠ .reset → s.diagStream <+: t.diagStream

/-- 10_state.md R35: BUSY is 1 from the acceptance of DIGEST until END executes: it falls only by END (or reset), and
rises only by an accepted DIGEST. -/
def Obligations.BusyFromDigestToEnd : Prop :=
  ∀ s t : State, step s = .next t → s.nextTurn ≠ .reset →
    (s.busy = true → t.busy = false →
      s.nextTurn = .core ∧ (uprogWord s.upc).map decodeCommand = some (.ok .endRun) ∧ t.done = true) ∧
    (s.busy = false → t.busy = true →
      s.nextTurn = cmdWrite 0x0100#32 ∧ s.msgLen.toNat ≤ Config.maxMsgBytes ∧ t.done = false ∧ t.upc = 0#8)

/-- 70_reset_and_hazards.md R296 (92 D33): while BUSY = 0 no step but reset changes H, OUT or OUT_LEN, nor P, PLEN, NBLK,
BP, a..h, W or DIAGSTREAM, so results stay valid until the next accepted DIGEST. -/
def Obligations.ResultsAreHeldWhileIdle : Prop :=
  ∀ s t : State, step s = .next t → s.nextTurn ≠ .reset → s.busy = false →
    t.H = s.H ∧ t.out = s.out ∧ t.outLen = s.outLen ∧ t.P = s.P ∧ t.plen = s.plen ∧ t.nblk = s.nblk ∧
    t.bp = s.bp ∧ t.wv = s.wv ∧ t.W = s.W ∧ t.diagStream = s.diagStream

/-- 44_control.md R224 and 20_memory.md R75, R298, R297: no host transaction disturbs a run in progress. -/
def Obligations.HostStepsDoNotDisturbTheRun : Prop :=
  ∀ (s t : State) (x : BusTxn), step s = .next t → s.busy = true → s.nextTurn = .host x → s.sameRun t

/-! ### Whole runs -/

/-- 44_control.md R230 with R228: with the host silent, the 132·NBLK + 5 core steps after acceptance leave the digest of
the message in H, its text in OUT, and every other item of R230's list. -/
def Obligations.RunComputesTheDigest : Prop :=
  ∀ (s : State) (msg : List Byte) (n : Nat),
    s.busy = true → s.upc = 0#8 → s.turns = [] → s.holdsMessage msg → n = blockCount msg.length →
    ∃ t, Sys2Proof.core.run (132 * n + 5) s = .next t ∧
      t.H = digestWords msg ∧ t.showsText (textOf s.smode t.H) ∧ t.busy = false ∧ t.done = true ∧
      t.bp.toNat = n ∧ t.nblk.toNat = n ∧ t.plen.toNat = 64 * n ∧ t.upc = 136#8 ∧
      t.W = scheduleOf (blockOf (padMessage msg) (n - 1)) ∧
      t.wv = roundsUpTo t.W 64 (workVarsOf (hashAfter (padMessage msg) (n - 1))) ∧
      t.diagStream = s.diagStream ++ (if s.sdiag then runEvents (padMessage msg) n else []) ∧
      t.M = s.M ∧ t.msgLen = s.msgLen ∧ t.mode = s.mode ∧ t.diag = s.diag ∧ t.cmdErr = s.cmdErr

/-- 44_control.md R228: whatever the host does, before the last of the core's 132·NBLK + 5 steps a run is still in
progress, so the count is exact. The list of turns, and that the host is silent when it is empty, are the model's form of
an interleaving (log 1). -/
def Obligations.RunTakesExactlyItsSteps : Prop :=
  ∀ (s : State) (msg : List Byte) (k n : Nat),
    s.busy = true → s.upc = 0#8 → s.holdsMessage msg → s.coreMoves k n → n < 132 * blockCount msg.length + 5 →
    ∃ t, Sys2Proof.core.run k s = .next t ∧ t.turns = s.turns.drop k ∧ t.busy = true

/-- 44_control.md R233 with R223: whatever host transactions are interleaved with the core's steps, the run leaves the
digest of the message that was present at acceptance, and its text. -/
def Obligations.RunUnderAnyInterleaving : Prop :=
  ∀ (s : State) (msg : List Byte) (ts rest : List Turn),
    s.busy = true → s.upc = 0#8 → s.holdsMessage msg →
    (∀ x ∈ ts, x.legal ∧ x ≠ .reset) → ts.count .core = 132 * blockCount msg.length + 4 →
    s.turns = ts ++ .core :: rest →
    ∃ t, Sys2Proof.core.run (ts.length + 1) s = .next t ∧ t.turns = rest ∧ t.busy = false ∧ t.done = true ∧
      t.H = digestWords msg ∧ t.showsText (textOf s.smode (digestWords msg))

/-- 44_control.md R223: two runs on the same message and the same mode leave the same H, OUT_LEN and text, whatever
else the two states hold, the diagnostics flag among it, and whatever the host does during each. Each run lasts until the
core's last step: `j` and `k` steps, of which the core makes 132·NBLK + 5 and the last. The list of turns is the model's
form of an interleaving (log 1). -/
def Obligations.RunsAreDeterministic : Prop :=
  ∀ (s t : State) (msg : List Byte) (j k n : Nat),
    s.busy = true → s.upc = 0#8 → s.holdsMessage msg → t.busy = true → t.upc = 0#8 → t.holdsMessage msg →
    s.smode = t.smode → n = 132 * blockCount msg.length + 5 →
    s.coreMoves j n → (s.turnsTaken j).getLast? = some .core →
    t.coreMoves k n → (t.turnsTaken k).getLast? = some .core →
    ∃ s' t', Sys2Proof.core.run j s = .next s' ∧ Sys2Proof.core.run k t = .next t' ∧
      s'.done = true ∧ t'.done = true ∧
      s'.H = t'.H ∧ s'.outLen = t'.outLen ∧ ∀ i : Nat, i < s'.outLen.toNat → s'.out.read i = t'.out.read i
end

