-- ==== Sys2Proof/Laws/Decode.lean ====
section
/-! SUPPORT. What the decoder answers on a word given as its UNIT:FUNC byte and its IMM byte, and what stands in the
micro-program. -/

namespace Sys2Proof

/-- A bit of a word given as two bytes. -/
theorem getLsbD_bytes (u imm : BitVec 8) (j : Nat) :
    (u ++ imm : CmdWord).getLsbD j = if j < 8 then imm.getLsbD j else u.getLsbD (j - 8) :=
  BitVec.getLsbD_append

/-- A bit of a byte given as two nibbles. -/
theorem getLsbD_nibbles (x y : BitVec 4) (j : Nat) :
    (x ++ y : BitVec 8).getLsbD j = if j < 4 then y.getLsbD j else x.getLsbD (j - 4) :=
  BitVec.getLsbD_append

@[simp] theorem immOf_append (u imm : BitVec 8) : immOf (u ++ imm) = imm := by
  apply BitVec.eq_of_getLsbD_eq
  intro j hj
  simp only [immOf, BitVec.getLsbD_extractLsb', getLsbD_bytes, Nat.zero_add, hj, decide_true, Bool.true_and, if_true]

@[simp] theorem unitOf_append (u imm : BitVec 8) : unitOf (u ++ imm) = u.extractLsb' 4 4 := by
  apply BitVec.eq_of_getLsbD_eq
  intro j hj
  simp only [unitOf, BitVec.getLsbD_extractLsb', getLsbD_bytes, if_neg (show ¬12 + j < 8 by omega),
    show 12 + j - 8 = 4 + j by omega]

@[simp] theorem funcOf_append (u imm : BitVec 8) : funcOf (u ++ imm) = u.extractLsb' 0 4 := by
  apply BitVec.eq_of_getLsbD_eq
  intro j hj
  simp only [funcOf, BitVec.getLsbD_extractLsb', getLsbD_bytes, if_neg (show ¬8 + j < 8 by omega),
    show 8 + j - 8 = 0 + j by omega]

/-- A word is its UNIT, its FUNC and its IMM. -/
theorem cmdWord_eq_fields (w : CmdWord) : w = (unitOf w ++ funcOf w : BitVec 8) ++ immOf w := by
  apply BitVec.eq_of_getLsbD_eq
  intro j hj
  rw [getLsbD_bytes, getLsbD_nibbles]
  simp only [unitOf, funcOf, immOf, BitVec.getLsbD_extractLsb']
  split
  · rename_i h; simp [h]
  · split
    · rename_i h; simp [h, show 8 + (j - 8) = j by omega]
    · rename_i h; simp [show j - 8 - 4 < 4 by omega, show 12 + (j - 8 - 4) = j by omega]

theorem withoutOperand_eq_ok {imm : BitVec 8} {i j : Instr} :
    withoutOperand imm i = .ok j ↔ imm = 0#8 ∧ i = j := by
  unfold withoutOperand; split <;> simp_all

theorem withOperand_eq_ok {i j : Instr} : withOperand i = .ok j ↔ i.wf = true ∧ i = j := by
  unfold withOperand; split <;> simp_all

end Sys2Proof
end

