-- ==== Sys2Proof/Laws/Memory.lean ====
section
/-! SUPPORT. What reading and writing a byte buffer do. -/

namespace Sys2Proof.Machine

theorem Memory.read_write (m : Memory) (k j : Nat) (v : Byte) :
    (m.write k v).read j = if j = k then some v else m.read j := by
  induction m with
  | nil => simp [Memory.write, Memory.read, eq_comm]
  | cons c rest ih =>
    obtain ⟨a, x⟩ := c
    simp only [Memory.write]
    split
    · simp [Memory.read, eq_comm]
    · split
      · rename_i _ h; subst h
        simp only [Memory.read, eq_comm (a := k)]
        split <;> rfl
      · simp only [Memory.read, ih]
        split_ifs <;> first | rfl | omega

/-- The canonical form as an order: strictly rising indices. -/
theorem Memory.wf_iff_pairwise (m : Memory) : m.wf = true ↔ m.Pairwise (·.1 < ·.1) := by
  induction m with
  | nil => simp [Memory.wf]
  | cons c rest ih =>
    obtain ⟨a, x⟩ := c
    cases rest with
    | nil => simp [Memory.wf]
    | cons d tail =>
      obtain ⟨b, y⟩ := d
      simp only [Memory.wf, Bool.and_eq_true, decide_eq_true_eq, ih]
      rw [List.pairwise_cons (a := (a, x))]
      refine and_congr_left fun h => ⟨fun hab c hc => ?_, fun hall => hall (b, y) List.mem_cons_self⟩
      rcases List.mem_cons.1 hc with rfl | hc
      · exact hab
      · exact lt_trans hab (List.rel_of_pairwise_cons h hc)

theorem Memory.mem_write {m : Memory} {k : Nat} {v : Byte} {c : Host.Cell} (h : c ∈ m.write k v) :
    c = (k, v) ∨ c ∈ m := by
  induction m with
  | nil => simpa [Memory.write] using h
  | cons d rest ih =>
    obtain ⟨a, x⟩ := d
    simp only [Memory.write] at h
    split at h
    · simpa using h
    · split at h
      · rcases List.mem_cons.1 h with h | h
        · exact .inl h
        · exact .inr (List.mem_cons_of_mem _ h)
      · rcases List.mem_cons.1 h with h | h
        · exact .inr (h ▸ List.mem_cons_self)
        · rcases ih h with h | h
          · exact .inl h
          · exact .inr (List.mem_cons_of_mem _ h)

/-- A write keeps the canonical form. -/
theorem Memory.write_wf {m : Memory} (k : Nat) (v : Byte) (h : m.wf = true) : (m.write k v).wf = true := by
  rw [Memory.wf_iff_pairwise] at h ⊢
  induction m with
  | nil => simp [Memory.write]
  | cons c rest ih =>
    obtain ⟨a, x⟩ := c
    have hc := List.pairwise_cons.1 h
    simp only [Memory.write]
    split
    · rename_i hk
      refine List.pairwise_cons.2 ⟨fun d hd => ?_, h⟩
      rcases List.mem_cons.1 hd with rfl | hd
      · exact hk
      · exact lt_trans hk (hc.1 d hd)
    · split
      · rename_i _ hk; subst hk
        exact List.pairwise_cons.2 ⟨hc.1, hc.2⟩
      · refine List.pairwise_cons.2 ⟨fun d hd => ?_, ih hc.2⟩
        rcases Memory.mem_write hd with rfl | hd
        · simp only; omega
        · exact hc.1 d hd

theorem Memory.read_writeList (m : Memory) (k : Nat) (bs : List Byte) (j : Nat) :
    (m.writeList k bs).read j = if k ≤ j ∧ j < k + bs.length then bs[j - k]? else m.read j := by
  induction bs generalizing m k with
  | nil => simp only [Memory.writeList, List.length_nil]; rw [if_neg (by omega)]
  | cons b rest ih =>
    rw [Memory.writeList, ih, Memory.read_write]
    by_cases hj : j = k
    · subst hj; simp
    · by_cases hr : k + 1 ≤ j ∧ j < k + 1 + rest.length
      · rw [if_pos hr, if_pos (by simp; omega)]
        have : j - k = (j - (k + 1)) + 1 := by omega
        rw [this, List.getElem?_cons_succ]
      · rw [if_neg hr, if_neg hj, if_neg (by simp; omega)]

theorem Memory.writeList_wf {m : Memory} (k : Nat) (bs : List Byte) (h : m.wf = true) :
    (m.writeList k bs).wf = true := by
  induction bs generalizing m k with
  | nil => exact h
  | cons b rest ih => exact ih _ (Memory.write_wf k b h)

theorem Memory.mem_writeList {m : Memory} {k : Nat} {bs : List Byte} {c : Host.Cell}
    (h : c ∈ m.writeList k bs) : c ∈ m ∨ (k ≤ c.1 ∧ c.1 < k + bs.length) := by
  induction bs generalizing m k with
  | nil => exact .inl h
  | cons b rest ih =>
    rcases ih h with h | h
    · rcases Memory.mem_write h with rfl | h
      · right; simp
      · exact .inl h
    · right; simp; omega

/-- Below its first index a canonical buffer has no byte. -/
theorem Memory.read_below {m : Memory} {k : Nat} (h : ∀ c ∈ m, k < c.1) : m.read k = none := by
  induction m with
  | nil => rfl
  | cons c rest ih =>
    obtain ⟨a, x⟩ := c
    have ha : k < a := h (a, x) List.mem_cons_self
    simp only [Memory.read, if_neg (show ¬a = k by omega)]
    exact ih fun d hd => h d (List.mem_cons_of_mem _ hd)

end Sys2Proof.Machine
end

