-- ==== Sys2Proof/Laws/State.lean ====
section
/-! SUPPORT. One lemma per field per update: what each state operation leaves in each field. -/

namespace Sys2Proof.Machine

@[simp] theorem advance_H (s : State) : (advance s).H = s.H := rfl
@[simp] theorem advance_wv (s : State) : (advance s).wv = s.wv := rfl
@[simp] theorem advance_W (s : State) : (advance s).W = s.W := rfl
@[simp] theorem advance_M (s : State) : (advance s).M = s.M := rfl
@[simp] theorem advance_msgLen (s : State) : (advance s).msgLen = s.msgLen := rfl
@[simp] theorem advance_P (s : State) : (advance s).P = s.P := rfl
@[simp] theorem advance_plen (s : State) : (advance s).plen = s.plen := rfl
@[simp] theorem advance_nblk (s : State) : (advance s).nblk = s.nblk := rfl
@[simp] theorem advance_bp (s : State) : (advance s).bp = s.bp := rfl
@[simp] theorem advance_upc (s : State) : (advance s).upc = s.upc + 1#8 := rfl
@[simp] theorem advance_busy (s : State) : (advance s).busy = s.busy := rfl
@[simp] theorem advance_done (s : State) : (advance s).done = s.done := rfl
@[simp] theorem advance_cmdErr (s : State) : (advance s).cmdErr = s.cmdErr := rfl
@[simp] theorem advance_mode (s : State) : (advance s).mode = s.mode := rfl
@[simp] theorem advance_diag (s : State) : (advance s).diag = s.diag := rfl
@[simp] theorem advance_smode (s : State) : (advance s).smode = s.smode := rfl
@[simp] theorem advance_sdiag (s : State) : (advance s).sdiag = s.sdiag := rfl
@[simp] theorem advance_out (s : State) : (advance s).out = s.out := rfl
@[simp] theorem advance_outLen (s : State) : (advance s).outLen = s.outLen := rfl
@[simp] theorem advance_diagStream (s : State) : (advance s).diagStream = s.diagStream := rfl
@[simp] theorem advance_turns (s : State) : (advance s).turns = s.turns := rfl
@[simp] theorem advance_hostReads (s : State) : (advance s).hostReads = s.hostReads := rfl
@[simp] theorem advance_draws (s : State) : (advance s).draws = s.draws := rfl

@[simp] theorem reject_H (s : State) : (reject s).H = s.H := rfl
@[simp] theorem reject_wv (s : State) : (reject s).wv = s.wv := rfl
@[simp] theorem reject_W (s : State) : (reject s).W = s.W := rfl
@[simp] theorem reject_M (s : State) : (reject s).M = s.M := rfl
@[simp] theorem reject_msgLen (s : State) : (reject s).msgLen = s.msgLen := rfl
@[simp] theorem reject_P (s : State) : (reject s).P = s.P := rfl
@[simp] theorem reject_plen (s : State) : (reject s).plen = s.plen := rfl
@[simp] theorem reject_nblk (s : State) : (reject s).nblk = s.nblk := rfl
@[simp] theorem reject_bp (s : State) : (reject s).bp = s.bp := rfl
@[simp] theorem reject_upc (s : State) : (reject s).upc = s.upc := rfl
@[simp] theorem reject_busy (s : State) : (reject s).busy = s.busy := rfl
@[simp] theorem reject_done (s : State) : (reject s).done = s.done := rfl
@[simp] theorem reject_cmdErr (s : State) : (reject s).cmdErr = true := rfl
@[simp] theorem reject_mode (s : State) : (reject s).mode = s.mode := rfl
@[simp] theorem reject_diag (s : State) : (reject s).diag = s.diag := rfl
@[simp] theorem reject_smode (s : State) : (reject s).smode = s.smode := rfl
@[simp] theorem reject_sdiag (s : State) : (reject s).sdiag = s.sdiag := rfl
@[simp] theorem reject_out (s : State) : (reject s).out = s.out := rfl
@[simp] theorem reject_outLen (s : State) : (reject s).outLen = s.outLen := rfl
@[simp] theorem reject_diagStream (s : State) : (reject s).diagStream = s.diagStream := rfl
@[simp] theorem reject_turns (s : State) : (reject s).turns = s.turns := rfl
@[simp] theorem reject_hostReads (s : State) : (reject s).hostReads = s.hostReads := rfl
@[simp] theorem reject_draws (s : State) : (reject s).draws = s.draws := rfl

@[simp] theorem acceptDigest_H (s : State) : (acceptDigest s).H = s.H := rfl
@[simp] theorem acceptDigest_wv (s : State) : (acceptDigest s).wv = s.wv := rfl
@[simp] theorem acceptDigest_W (s : State) : (acceptDigest s).W = s.W := rfl
@[simp] theorem acceptDigest_M (s : State) : (acceptDigest s).M = s.M := rfl
@[simp] theorem acceptDigest_msgLen (s : State) : (acceptDigest s).msgLen = s.msgLen := rfl
@[simp] theorem acceptDigest_P (s : State) : (acceptDigest s).P = s.P := rfl
@[simp] theorem acceptDigest_plen (s : State) : (acceptDigest s).plen = s.plen := rfl
@[simp] theorem acceptDigest_nblk (s : State) : (acceptDigest s).nblk = s.nblk := rfl
@[simp] theorem acceptDigest_bp (s : State) : (acceptDigest s).bp = s.bp := rfl
@[simp] theorem acceptDigest_upc (s : State) : (acceptDigest s).upc = 0#8 := rfl
@[simp] theorem acceptDigest_busy (s : State) : (acceptDigest s).busy = true := rfl
@[simp] theorem acceptDigest_done (s : State) : (acceptDigest s).done = false := rfl
@[simp] theorem acceptDigest_cmdErr (s : State) : (acceptDigest s).cmdErr = s.cmdErr := rfl
@[simp] theorem acceptDigest_mode (s : State) : (acceptDigest s).mode = s.mode := rfl
@[simp] theorem acceptDigest_diag (s : State) : (acceptDigest s).diag = s.diag := rfl
@[simp] theorem acceptDigest_smode (s : State) : (acceptDigest s).smode = s.mode := rfl
@[simp] theorem acceptDigest_sdiag (s : State) : (acceptDigest s).sdiag = s.diag := rfl
@[simp] theorem acceptDigest_out (s : State) : (acceptDigest s).out = s.out := rfl
@[simp] theorem acceptDigest_outLen (s : State) : (acceptDigest s).outLen = s.outLen := rfl
@[simp] theorem acceptDigest_diagStream (s : State) : (acceptDigest s).diagStream = s.diagStream := rfl
@[simp] theorem acceptDigest_turns (s : State) : (acceptDigest s).turns = s.turns := rfl
@[simp] theorem acceptDigest_hostReads (s : State) : (acceptDigest s).hostReads = s.hostReads := rfl
@[simp] theorem acceptDigest_draws (s : State) : (acceptDigest s).draws = s.draws := rfl

@[simp] theorem finishRun_H (s : State) : (finishRun s).H = s.H := rfl
@[simp] theorem finishRun_wv (s : State) : (finishRun s).wv = s.wv := rfl
@[simp] theorem finishRun_W (s : State) : (finishRun s).W = s.W := rfl
@[simp] theorem finishRun_M (s : State) : (finishRun s).M = s.M := rfl
@[simp] theorem finishRun_msgLen (s : State) : (finishRun s).msgLen = s.msgLen := rfl
@[simp] theorem finishRun_P (s : State) : (finishRun s).P = s.P := rfl
@[simp] theorem finishRun_plen (s : State) : (finishRun s).plen = s.plen := rfl
@[simp] theorem finishRun_nblk (s : State) : (finishRun s).nblk = s.nblk := rfl
@[simp] theorem finishRun_bp (s : State) : (finishRun s).bp = s.bp := rfl
@[simp] theorem finishRun_upc (s : State) : (finishRun s).upc = s.upc := rfl
@[simp] theorem finishRun_busy (s : State) : (finishRun s).busy = false := rfl
@[simp] theorem finishRun_done (s : State) : (finishRun s).done = true := rfl
@[simp] theorem finishRun_cmdErr (s : State) : (finishRun s).cmdErr = s.cmdErr := rfl
@[simp] theorem finishRun_mode (s : State) : (finishRun s).mode = s.mode := rfl
@[simp] theorem finishRun_diag (s : State) : (finishRun s).diag = s.diag := rfl
@[simp] theorem finishRun_smode (s : State) : (finishRun s).smode = s.smode := rfl
@[simp] theorem finishRun_sdiag (s : State) : (finishRun s).sdiag = s.sdiag := rfl
@[simp] theorem finishRun_out (s : State) : (finishRun s).out = s.out := rfl
@[simp] theorem finishRun_outLen (s : State) : (finishRun s).outLen = s.outLen := rfl
@[simp] theorem finishRun_diagStream (s : State) : (finishRun s).diagStream = s.diagStream := rfl
@[simp] theorem finishRun_turns (s : State) : (finishRun s).turns = s.turns := rfl
@[simp] theorem finishRun_hostReads (s : State) : (finishRun s).hostReads = s.hostReads := rfl
@[simp] theorem finishRun_draws (s : State) : (finishRun s).draws = s.draws := rfl

@[simp] theorem emit_H (s : State) (e : DiagEvent) : (emit s e).H = s.H := rfl
@[simp] theorem emit_wv (s : State) (e : DiagEvent) : (emit s e).wv = s.wv := rfl
@[simp] theorem emit_W (s : State) (e : DiagEvent) : (emit s e).W = s.W := rfl
@[simp] theorem emit_M (s : State) (e : DiagEvent) : (emit s e).M = s.M := rfl
@[simp] theorem emit_msgLen (s : State) (e : DiagEvent) : (emit s e).msgLen = s.msgLen := rfl
@[simp] theorem emit_P (s : State) (e : DiagEvent) : (emit s e).P = s.P := rfl
@[simp] theorem emit_plen (s : State) (e : DiagEvent) : (emit s e).plen = s.plen := rfl
@[simp] theorem emit_nblk (s : State) (e : DiagEvent) : (emit s e).nblk = s.nblk := rfl
@[simp] theorem emit_bp (s : State) (e : DiagEvent) : (emit s e).bp = s.bp := rfl
@[simp] theorem emit_upc (s : State) (e : DiagEvent) : (emit s e).upc = s.upc := rfl
@[simp] theorem emit_busy (s : State) (e : DiagEvent) : (emit s e).busy = s.busy := rfl
@[simp] theorem emit_done (s : State) (e : DiagEvent) : (emit s e).done = s.done := rfl
@[simp] theorem emit_cmdErr (s : State) (e : DiagEvent) : (emit s e).cmdErr = s.cmdErr := rfl
@[simp] theorem emit_mode (s : State) (e : DiagEvent) : (emit s e).mode = s.mode := rfl
@[simp] theorem emit_diag (s : State) (e : DiagEvent) : (emit s e).diag = s.diag := rfl
@[simp] theorem emit_smode (s : State) (e : DiagEvent) : (emit s e).smode = s.smode := rfl
@[simp] theorem emit_sdiag (s : State) (e : DiagEvent) : (emit s e).sdiag = s.sdiag := rfl
@[simp] theorem emit_out (s : State) (e : DiagEvent) : (emit s e).out = s.out := rfl
@[simp] theorem emit_outLen (s : State) (e : DiagEvent) : (emit s e).outLen = s.outLen := rfl
@[simp] theorem emit_diagStream (s : State) (e : DiagEvent) : (emit s e).diagStream = s.diagStream ++ [e] := rfl
@[simp] theorem emit_turns (s : State) (e : DiagEvent) : (emit s e).turns = s.turns := rfl
@[simp] theorem emit_hostReads (s : State) (e : DiagEvent) : (emit s e).hostReads = s.hostReads := rfl
@[simp] theorem emit_draws (s : State) (e : DiagEvent) : (emit s e).draws = s.draws := rfl

@[simp] theorem returnWord_H (s : State) (v : Word) : (returnWord s v).H = s.H := rfl
@[simp] theorem returnWord_wv (s : State) (v : Word) : (returnWord s v).wv = s.wv := rfl
@[simp] theorem returnWord_W (s : State) (v : Word) : (returnWord s v).W = s.W := rfl
@[simp] theorem returnWord_M (s : State) (v : Word) : (returnWord s v).M = s.M := rfl
@[simp] theorem returnWord_msgLen (s : State) (v : Word) : (returnWord s v).msgLen = s.msgLen := rfl
@[simp] theorem returnWord_P (s : State) (v : Word) : (returnWord s v).P = s.P := rfl
@[simp] theorem returnWord_plen (s : State) (v : Word) : (returnWord s v).plen = s.plen := rfl
@[simp] theorem returnWord_nblk (s : State) (v : Word) : (returnWord s v).nblk = s.nblk := rfl
@[simp] theorem returnWord_bp (s : State) (v : Word) : (returnWord s v).bp = s.bp := rfl
@[simp] theorem returnWord_upc (s : State) (v : Word) : (returnWord s v).upc = s.upc := rfl
@[simp] theorem returnWord_busy (s : State) (v : Word) : (returnWord s v).busy = s.busy := rfl
@[simp] theorem returnWord_done (s : State) (v : Word) : (returnWord s v).done = s.done := rfl
@[simp] theorem returnWord_cmdErr (s : State) (v : Word) : (returnWord s v).cmdErr = s.cmdErr := rfl
@[simp] theorem returnWord_mode (s : State) (v : Word) : (returnWord s v).mode = s.mode := rfl
@[simp] theorem returnWord_diag (s : State) (v : Word) : (returnWord s v).diag = s.diag := rfl
@[simp] theorem returnWord_smode (s : State) (v : Word) : (returnWord s v).smode = s.smode := rfl
@[simp] theorem returnWord_sdiag (s : State) (v : Word) : (returnWord s v).sdiag = s.sdiag := rfl
@[simp] theorem returnWord_out (s : State) (v : Word) : (returnWord s v).out = s.out := rfl
@[simp] theorem returnWord_outLen (s : State) (v : Word) : (returnWord s v).outLen = s.outLen := rfl
@[simp] theorem returnWord_diagStream (s : State) (v : Word) : (returnWord s v).diagStream = s.diagStream := rfl
@[simp] theorem returnWord_turns (s : State) (v : Word) : (returnWord s v).turns = s.turns := rfl
@[simp] theorem returnWord_hostReads (s : State) (v : Word) : (returnWord s v).hostReads = s.hostReads ++ [.word v] := rfl
@[simp] theorem returnWord_draws (s : State) (v : Word) : (returnWord s v).draws = s.draws := rfl

@[simp] theorem returnByte_H (s : State) (v : Byte) : (returnByte s v).H = s.H := rfl
@[simp] theorem returnByte_wv (s : State) (v : Byte) : (returnByte s v).wv = s.wv := rfl
@[simp] theorem returnByte_W (s : State) (v : Byte) : (returnByte s v).W = s.W := rfl
@[simp] theorem returnByte_M (s : State) (v : Byte) : (returnByte s v).M = s.M := rfl
@[simp] theorem returnByte_msgLen (s : State) (v : Byte) : (returnByte s v).msgLen = s.msgLen := rfl
@[simp] theorem returnByte_P (s : State) (v : Byte) : (returnByte s v).P = s.P := rfl
@[simp] theorem returnByte_plen (s : State) (v : Byte) : (returnByte s v).plen = s.plen := rfl
@[simp] theorem returnByte_nblk (s : State) (v : Byte) : (returnByte s v).nblk = s.nblk := rfl
@[simp] theorem returnByte_bp (s : State) (v : Byte) : (returnByte s v).bp = s.bp := rfl
@[simp] theorem returnByte_upc (s : State) (v : Byte) : (returnByte s v).upc = s.upc := rfl
@[simp] theorem returnByte_busy (s : State) (v : Byte) : (returnByte s v).busy = s.busy := rfl
@[simp] theorem returnByte_done (s : State) (v : Byte) : (returnByte s v).done = s.done := rfl
@[simp] theorem returnByte_cmdErr (s : State) (v : Byte) : (returnByte s v).cmdErr = s.cmdErr := rfl
@[simp] theorem returnByte_mode (s : State) (v : Byte) : (returnByte s v).mode = s.mode := rfl
@[simp] theorem returnByte_diag (s : State) (v : Byte) : (returnByte s v).diag = s.diag := rfl
@[simp] theorem returnByte_smode (s : State) (v : Byte) : (returnByte s v).smode = s.smode := rfl
@[simp] theorem returnByte_sdiag (s : State) (v : Byte) : (returnByte s v).sdiag = s.sdiag := rfl
@[simp] theorem returnByte_out (s : State) (v : Byte) : (returnByte s v).out = s.out := rfl
@[simp] theorem returnByte_outLen (s : State) (v : Byte) : (returnByte s v).outLen = s.outLen := rfl
@[simp] theorem returnByte_diagStream (s : State) (v : Byte) : (returnByte s v).diagStream = s.diagStream := rfl
@[simp] theorem returnByte_turns (s : State) (v : Byte) : (returnByte s v).turns = s.turns := rfl
@[simp] theorem returnByte_hostReads (s : State) (v : Byte) : (returnByte s v).hostReads = s.hostReads ++ [.byte v] := rfl
@[simp] theorem returnByte_draws (s : State) (v : Byte) : (returnByte s v).draws = s.draws := rfl

@[simp] theorem returnFreeWord_H (s : State) : (returnFreeWord s).H = s.H := rfl
@[simp] theorem returnFreeWord_wv (s : State) : (returnFreeWord s).wv = s.wv := rfl
@[simp] theorem returnFreeWord_W (s : State) : (returnFreeWord s).W = s.W := rfl
@[simp] theorem returnFreeWord_M (s : State) : (returnFreeWord s).M = s.M := rfl
@[simp] theorem returnFreeWord_msgLen (s : State) : (returnFreeWord s).msgLen = s.msgLen := rfl
@[simp] theorem returnFreeWord_P (s : State) : (returnFreeWord s).P = s.P := rfl
@[simp] theorem returnFreeWord_plen (s : State) : (returnFreeWord s).plen = s.plen := rfl
@[simp] theorem returnFreeWord_nblk (s : State) : (returnFreeWord s).nblk = s.nblk := rfl
@[simp] theorem returnFreeWord_bp (s : State) : (returnFreeWord s).bp = s.bp := rfl
@[simp] theorem returnFreeWord_upc (s : State) : (returnFreeWord s).upc = s.upc := rfl
@[simp] theorem returnFreeWord_busy (s : State) : (returnFreeWord s).busy = s.busy := rfl
@[simp] theorem returnFreeWord_done (s : State) : (returnFreeWord s).done = s.done := rfl
@[simp] theorem returnFreeWord_cmdErr (s : State) : (returnFreeWord s).cmdErr = s.cmdErr := rfl
@[simp] theorem returnFreeWord_mode (s : State) : (returnFreeWord s).mode = s.mode := rfl
@[simp] theorem returnFreeWord_diag (s : State) : (returnFreeWord s).diag = s.diag := rfl
@[simp] theorem returnFreeWord_smode (s : State) : (returnFreeWord s).smode = s.smode := rfl
@[simp] theorem returnFreeWord_sdiag (s : State) : (returnFreeWord s).sdiag = s.sdiag := rfl
@[simp] theorem returnFreeWord_out (s : State) : (returnFreeWord s).out = s.out := rfl
@[simp] theorem returnFreeWord_outLen (s : State) : (returnFreeWord s).outLen = s.outLen := rfl
@[simp] theorem returnFreeWord_diagStream (s : State) : (returnFreeWord s).diagStream = s.diagStream := rfl
@[simp] theorem returnFreeWord_turns (s : State) : (returnFreeWord s).turns = s.turns := rfl
@[simp] theorem returnFreeWord_hostReads (s : State) : (returnFreeWord s).hostReads = s.hostReads ++ [.word (Config.freeWord s.draws)] := rfl
@[simp] theorem returnFreeWord_draws (s : State) : (returnFreeWord s).draws = s.draws + 1 := rfl

@[simp] theorem returnFreeByte_H (s : State) : (returnFreeByte s).H = s.H := rfl
@[simp] theorem returnFreeByte_wv (s : State) : (returnFreeByte s).wv = s.wv := rfl
@[simp] theorem returnFreeByte_W (s : State) : (returnFreeByte s).W = s.W := rfl
@[simp] theorem returnFreeByte_M (s : State) : (returnFreeByte s).M = s.M := rfl
@[simp] theorem returnFreeByte_msgLen (s : State) : (returnFreeByte s).msgLen = s.msgLen := rfl
@[simp] theorem returnFreeByte_P (s : State) : (returnFreeByte s).P = s.P := rfl
@[simp] theorem returnFreeByte_plen (s : State) : (returnFreeByte s).plen = s.plen := rfl
@[simp] theorem returnFreeByte_nblk (s : State) : (returnFreeByte s).nblk = s.nblk := rfl
@[simp] theorem returnFreeByte_bp (s : State) : (returnFreeByte s).bp = s.bp := rfl
@[simp] theorem returnFreeByte_upc (s : State) : (returnFreeByte s).upc = s.upc := rfl
@[simp] theorem returnFreeByte_busy (s : State) : (returnFreeByte s).busy = s.busy := rfl
@[simp] theorem returnFreeByte_done (s : State) : (returnFreeByte s).done = s.done := rfl
@[simp] theorem returnFreeByte_cmdErr (s : State) : (returnFreeByte s).cmdErr = s.cmdErr := rfl
@[simp] theorem returnFreeByte_mode (s : State) : (returnFreeByte s).mode = s.mode := rfl
@[simp] theorem returnFreeByte_diag (s : State) : (returnFreeByte s).diag = s.diag := rfl
@[simp] theorem returnFreeByte_smode (s : State) : (returnFreeByte s).smode = s.smode := rfl
@[simp] theorem returnFreeByte_sdiag (s : State) : (returnFreeByte s).sdiag = s.sdiag := rfl
@[simp] theorem returnFreeByte_out (s : State) : (returnFreeByte s).out = s.out := rfl
@[simp] theorem returnFreeByte_outLen (s : State) : (returnFreeByte s).outLen = s.outLen := rfl
@[simp] theorem returnFreeByte_diagStream (s : State) : (returnFreeByte s).diagStream = s.diagStream := rfl
@[simp] theorem returnFreeByte_turns (s : State) : (returnFreeByte s).turns = s.turns := rfl
@[simp] theorem returnFreeByte_hostReads (s : State) : (returnFreeByte s).hostReads = s.hostReads ++ [.byte (Config.freeByte s.draws)] := rfl
@[simp] theorem returnFreeByte_draws (s : State) : (returnFreeByte s).draws = s.draws + 1 := rfl

@[simp] theorem rejectRead32_H (s : State) : (rejectRead32 s).H = s.H := rfl
@[simp] theorem rejectRead32_wv (s : State) : (rejectRead32 s).wv = s.wv := rfl
@[simp] theorem rejectRead32_W (s : State) : (rejectRead32 s).W = s.W := rfl
@[simp] theorem rejectRead32_M (s : State) : (rejectRead32 s).M = s.M := rfl
@[simp] theorem rejectRead32_msgLen (s : State) : (rejectRead32 s).msgLen = s.msgLen := rfl
@[simp] theorem rejectRead32_P (s : State) : (rejectRead32 s).P = s.P := rfl
@[simp] theorem rejectRead32_plen (s : State) : (rejectRead32 s).plen = s.plen := rfl
@[simp] theorem rejectRead32_nblk (s : State) : (rejectRead32 s).nblk = s.nblk := rfl
@[simp] theorem rejectRead32_bp (s : State) : (rejectRead32 s).bp = s.bp := rfl
@[simp] theorem rejectRead32_upc (s : State) : (rejectRead32 s).upc = s.upc := rfl
@[simp] theorem rejectRead32_busy (s : State) : (rejectRead32 s).busy = s.busy := rfl
@[simp] theorem rejectRead32_done (s : State) : (rejectRead32 s).done = s.done := rfl
@[simp] theorem rejectRead32_cmdErr (s : State) : (rejectRead32 s).cmdErr = true := rfl
@[simp] theorem rejectRead32_mode (s : State) : (rejectRead32 s).mode = s.mode := rfl
@[simp] theorem rejectRead32_diag (s : State) : (rejectRead32 s).diag = s.diag := rfl
@[simp] theorem rejectRead32_smode (s : State) : (rejectRead32 s).smode = s.smode := rfl
@[simp] theorem rejectRead32_sdiag (s : State) : (rejectRead32 s).sdiag = s.sdiag := rfl
@[simp] theorem rejectRead32_out (s : State) : (rejectRead32 s).out = s.out := rfl
@[simp] theorem rejectRead32_outLen (s : State) : (rejectRead32 s).outLen = s.outLen := rfl
@[simp] theorem rejectRead32_diagStream (s : State) : (rejectRead32 s).diagStream = s.diagStream := rfl
@[simp] theorem rejectRead32_turns (s : State) : (rejectRead32 s).turns = s.turns := rfl
@[simp] theorem rejectRead32_hostReads (s : State) : (rejectRead32 s).hostReads = s.hostReads ++ [.word 0#32] := rfl
@[simp] theorem rejectRead32_draws (s : State) : (rejectRead32 s).draws = s.draws := rfl

@[simp] theorem rejectRead8_H (s : State) : (rejectRead8 s).H = s.H := rfl
@[simp] theorem rejectRead8_wv (s : State) : (rejectRead8 s).wv = s.wv := rfl
@[simp] theorem rejectRead8_W (s : State) : (rejectRead8 s).W = s.W := rfl
@[simp] theorem rejectRead8_M (s : State) : (rejectRead8 s).M = s.M := rfl
@[simp] theorem rejectRead8_msgLen (s : State) : (rejectRead8 s).msgLen = s.msgLen := rfl
@[simp] theorem rejectRead8_P (s : State) : (rejectRead8 s).P = s.P := rfl
@[simp] theorem rejectRead8_plen (s : State) : (rejectRead8 s).plen = s.plen := rfl
@[simp] theorem rejectRead8_nblk (s : State) : (rejectRead8 s).nblk = s.nblk := rfl
@[simp] theorem rejectRead8_bp (s : State) : (rejectRead8 s).bp = s.bp := rfl
@[simp] theorem rejectRead8_upc (s : State) : (rejectRead8 s).upc = s.upc := rfl
@[simp] theorem rejectRead8_busy (s : State) : (rejectRead8 s).busy = s.busy := rfl
@[simp] theorem rejectRead8_done (s : State) : (rejectRead8 s).done = s.done := rfl
@[simp] theorem rejectRead8_cmdErr (s : State) : (rejectRead8 s).cmdErr = true := rfl
@[simp] theorem rejectRead8_mode (s : State) : (rejectRead8 s).mode = s.mode := rfl
@[simp] theorem rejectRead8_diag (s : State) : (rejectRead8 s).diag = s.diag := rfl
@[simp] theorem rejectRead8_smode (s : State) : (rejectRead8 s).smode = s.smode := rfl
@[simp] theorem rejectRead8_sdiag (s : State) : (rejectRead8 s).sdiag = s.sdiag := rfl
@[simp] theorem rejectRead8_out (s : State) : (rejectRead8 s).out = s.out := rfl
@[simp] theorem rejectRead8_outLen (s : State) : (rejectRead8 s).outLen = s.outLen := rfl
@[simp] theorem rejectRead8_diagStream (s : State) : (rejectRead8 s).diagStream = s.diagStream := rfl
@[simp] theorem rejectRead8_turns (s : State) : (rejectRead8 s).turns = s.turns := rfl
@[simp] theorem rejectRead8_hostReads (s : State) : (rejectRead8 s).hostReads = s.hostReads ++ [.byte 0#8] := rfl
@[simp] theorem rejectRead8_draws (s : State) : (rejectRead8 s).draws = s.draws := rfl

@[simp] theorem resetInput_M (s : State) : (resetInput s).M = [] := rfl
@[simp] theorem resetInput_msgLen (s : State) : (resetInput s).msgLen = 0#32 := rfl
@[simp] theorem resetInput_P (s : State) : (resetInput s).P = [] := rfl
@[simp] theorem resetInput_plen (s : State) : (resetInput s).plen = 0#64 := rfl
@[simp] theorem resetInput_nblk (s : State) : (resetInput s).nblk = 0#64 := rfl
@[simp] theorem resetInput_bp (s : State) : (resetInput s).bp = 0#64 := rfl
@[simp] theorem resetInput_upc (s : State) : (resetInput s).upc = 0#8 := rfl
@[simp] theorem resetInput_busy (s : State) : (resetInput s).busy = false := rfl
@[simp] theorem resetInput_done (s : State) : (resetInput s).done = false := rfl
@[simp] theorem resetInput_cmdErr (s : State) : (resetInput s).cmdErr = false := rfl
@[simp] theorem resetInput_mode (s : State) : (resetInput s).mode = .hexadecimal := rfl
@[simp] theorem resetInput_diag (s : State) : (resetInput s).diag = false := rfl
@[simp] theorem resetInput_out (s : State) : (resetInput s).out = [] := rfl
@[simp] theorem resetInput_outLen (s : State) : (resetInput s).outLen = 0#9 := rfl
@[simp] theorem resetInput_diagStream (s : State) : (resetInput s).diagStream = [] := rfl
@[simp] theorem resetInput_turns (s : State) : (resetInput s).turns = s.turns := rfl
@[simp] theorem resetInput_hostReads (s : State) : (resetInput s).hostReads = s.hostReads := rfl
@[simp] theorem resetInput_draws (s : State) : (resetInput s).draws = s.draws + 82 := rfl

end Sys2Proof.Machine
end

