-- ==== Sys2Proof/Laws/Ops.lean ====
section
/-! SUPPORT. What the shared operations do: free draws, reading M and P, byte order, the padding arithmetic. -/

namespace Sys2Proof.Machine

/-! ### Free draws and memory reads -/

/-- Where every byte has a value nothing is drawn. -/
@[simp] theorem fillDraws_some (d : Nat) (bs : List Byte) : fillDraws d (bs.map some) = (bs, d) := by
  induction bs with
  | nil => rfl
  | cons b rest ih => simp [fillDraws, ih]

@[simp] theorem fillDraws_length (d : Nat) (bs : List (Option Byte)) : (fillDraws d bs).1.length = bs.length := by
  induction bs generalizing d with
  | nil => rfl
  | cons b rest ih => cases b <;> simp [fillDraws, ih]

/-- A byte that has a value is kept. -/
theorem fillDraws_getElem? {d : Nat} {bs : List (Option Byte)} {k : Nat} {b : Byte} (h : bs[k]? = some (some b)) :
    (fillDraws d bs).1[k]? = some b := by
  induction bs generalizing d k with
  | nil => simp at h
  | cons c rest ih =>
    cases k with
    | zero => simp only [List.getElem?_cons_zero, Option.some.injEq] at h; subst h; simp [fillDraws]
    | succ k =>
      simp only [List.getElem?_cons_succ] at h
      cases c <;> simp [fillDraws, ih h]

@[simp] theorem memReadM_length (s : State) (addr n : Nat) : (memReadM s addr n).length = n := by simp [memReadM]

@[simp] theorem memReadP_length (s : State) (addr n : Nat) : (memReadP s addr n).length = n := by simp [memReadP]

theorem memReadM_getElem? (s : State) (addr n k : Nat) (h : k < n) :
    (memReadM s addr n)[k]? = some (s.M.read (addr + k)) := by simp [memReadM, h]

/-- Reading inside P gives its bytes. -/
theorem memReadP_inside (s : State) (addr n : Nat) (h : addr + n ≤ s.P.length) :
    memReadP s addr n = ((s.P.drop addr).take n).map some := by
  apply List.ext_getElem?
  intro k
  by_cases hk : k < n
  · have hl : addr + k < s.P.length := by omega
    simp [memReadP, hk, hl]
  · simp [memReadP, hk]

/-- Reading a message every byte of which has been written gives the message. -/
theorem memReadM_written (s : State) (msg : List Byte) (h : ∀ k : Nat, k < msg.length → s.M.read k = msg[k]?) :
    memReadM s 0 msg.length = msg.map some := by
  apply List.ext_getElem?
  intro k
  by_cases hk : k < msg.length
  · simp [memReadM, hk, h k hk]
  · simp [memReadM, hk]

/-! ### Byte order -/

theorem be32_toNat (b0 b1 b2 b3 : Byte) :
    (be32 [b0, b1, b2, b3]).toNat = b0.toNat * 2 ^ 24 + b1.toNat * 2 ^ 16 + b2.toNat * 2 ^ 8 + b3.toNat := by
  have h0 := b0.isLt; have h1 := b1.isLt; have h2 := b2.isLt; have h3 := b3.isLt
  simp only [be32, beNat, List.foldl, BitVec.toNat_ofNat]
  omega

@[simp] theorem be64_length (x : BitVec 64) : (be64 x).length = 8 := rfl

/-! ### The padding arithmetic -/

theorem zeroCount_lt (len : Nat) : zeroCount len < 64 := by unfold zeroCount; omega

/-- The defining property of z (40_padding.md R122). -/
theorem zeroCount_spec (len : Nat) : (len + 1 + zeroCount len) % 64 = 56 := by unfold zeroCount; omega

theorem zeroCount_unique {len z : Nat} (hz : z < 64) (h : (len + 1 + z) % 64 = 56) : zeroCount len = z := by
  unfold zeroCount; omega

@[simp] theorem padMessage_length (msg : List Byte) :
    (padMessage msg).length = msg.length + 1 + zeroCount msg.length + 8 := by
  simp [padMessage]; omega

theorem padMessage_length_mod (msg : List Byte) : (padMessage msg).length % 64 = 0 := by
  have := zeroCount_spec msg.length
  rw [padMessage_length]; omega

theorem padMessage_blocks (msg : List Byte) : (padMessage msg).length = 64 * ((msg.length + 8) / 64 + 1) := by
  rw [padMessage_length]; unfold zeroCount; omega

theorem bitLength_toNat (len : Nat) : (bitLength len).toNat = 8 * len % 2 ^ 64 := by simp [bitLength]

end Sys2Proof.Machine
end

