-- ==== Sys2Proof/Laws/Exec.lean ====
section
/-! SUPPORT. One equation per instruction whose meaning has a check or a draw: what it answers when the check holds, and
what it can change at all. -/

namespace Sys2Proof.Machine

theorem execLoadw_legal {t : BitVec 8} (h : legalLoadIndex t) (s : State) :
    execLoadw t s = .next (advance { s with
      W := s.W.set t.toNat (be32 (fillDraws s.draws (memReadP s (64 * s.bp.toNat + 4 * t.toNat) 4)).1) (by omega)
      draws := (fillDraws s.draws (memReadP s (64 * s.bp.toNat + 4 * t.toNat) 4)).2 }) := by
  unfold execLoadw; rw [dif_pos h]

/-- LOADW of a word inside P draws nothing. -/
theorem execLoadw_inside {t : BitVec 8} (h : legalLoadIndex t) (s : State)
    (hp : 64 * s.bp.toNat + 4 * t.toNat + 4 ≤ s.P.length) :
    execLoadw t s = .next (advance { s with
      W := s.W.set t.toNat (be32 ((s.P.drop (64 * s.bp.toNat + 4 * t.toNat)).take 4)) (by omega) }) := by
  rw [execLoadw_legal h, memReadP_inside _ _ _ hp, fillDraws_some]

theorem execExpw_legal {t : BitVec 8} (h : legalExpandIndex t) (s : State) :
    execExpw t s = .next (advance { s with W := s.W.set t.toNat (expandWord s.W t.toNat h) (by omega) }) := by
  unfold execExpw; rw [dif_pos h]

theorem execRound_legal {i : BitVec 8} (h : legalRoundIndex i) (s : State) :
    execRound i s = .next (advance { s with
      wv := roundStep s.wv (roundConstants[i.toNat]'(by omega)) (s.W[i.toNat]'(by omega)) }) := by
  unfold execRound; rw [dif_pos h]

theorem execLoopblk_legal {tgt : BitVec 8} (h : legalTarget tgt) (s : State) :
    execLoopblk tgt s = .next (if s.bp < s.nblk then { s with upc := tgt } else advance s) := by
  unfold execLoopblk; rw [if_pos h]

/-- PAD on a message every byte of which has been written draws nothing. -/
theorem execPad_written {s : State} {msg : List Byte} (hl : s.msgLen.toNat = msg.length)
    (hm : ∀ k : Nat, k < msg.length → s.M.read k = msg[k]?) :
    execPad s = .next (advance { s with
      P := padMessage msg
      plen := BitVec.ofNat 64 (padMessage msg).length
      nblk := BitVec.ofNat 64 (padMessage msg).length / 64#64
      bp := 0#64 }) := by
  unfold execPad
  simp only [hl, memReadM_written s msg hm, fillDraws_some, padMessage_length]

/-- DIAGP with P holding PLEN bytes draws nothing. -/
theorem execDiagp_whole {s : State} (h : s.plen.toNat = s.P.length) :
    execDiagp s = .next (advance (if s.sdiag then emit s (.padded s.P) else s)) := by
  have : memReadP s 0 s.plen.toNat = s.P.map some := by
    rw [memReadP_inside _ _ _ (by omega), h]; simp
  unfold execDiagp
  rw [this, fillDraws_some]

/-- LOADW changes at most W, the draw counter and upc. -/
theorem execLoadw_frame {t : BitVec 8} {s s' : State} (h : execLoadw t s = .next s') :
    s' = { s with W := s'.W, draws := s'.draws, upc := s.upc + 1#8 } := by
  unfold execLoadw at h
  split at h <;> cases h
  rfl

/-- EXPW changes at most W and upc. -/
theorem execExpw_frame {t : BitVec 8} {s s' : State} (h : execExpw t s = .next s') :
    s' = { s with W := s'.W, upc := s.upc + 1#8 } := by
  unfold execExpw at h
  split at h <;> cases h
  rfl

/-- ROUND changes at most a..h and upc. -/
theorem execRound_frame {i : BitVec 8} {s s' : State} (h : execRound i s = .next s') :
    s' = { s with wv := s'.wv, upc := s.upc + 1#8 } := by
  unfold execRound at h
  split at h <;> cases h
  rfl

/-- LOOPBLK changes at most upc. -/
theorem execLoopblk_frame {tgt : BitVec 8} {s s' : State} (h : execLoopblk tgt s = .next s') :
    s' = { s with upc := s'.upc } := by
  unfold execLoopblk at h
  split at h <;> cases h
  split <;> rfl

/-- DIAGP changes at most DIAGSTREAM, the draw counter and upc. -/
theorem execDiagp_frame {s s' : State} (h : execDiagp s = .next s') :
    s' = { s with diagStream := s'.diagStream, draws := s'.draws, upc := s.upc + 1#8 } := by
  unfold execDiagp at h
  cases h
  split <;> rfl

/-- DIAGW changes at most DIAGSTREAM and upc. -/
theorem execDiagw_frame {s s' : State} (h : execDiagw s = .next s') :
    s' = { s with diagStream := s'.diagStream, upc := s.upc + 1#8 } := by
  unfold execDiagw at h
  cases h
  split <;> rfl

/-- PAD changes at most P, PLEN, NBLK, BP, the draw counter and upc. -/
theorem execPad_frame {s s' : State} (h : execPad s = .next s') :
    s' = { s with P := s'.P, plen := s'.plen, nblk := s'.nblk, bp := 0#64, draws := s'.draws, upc := s.upc + 1#8 } := by
  unfold execPad at h
  cases h
  rfl

end Sys2Proof.Machine
end

