-- ==== Sys2Proof/Laws/HostBus.lean ====
section
/-! SUPPORT. What the host bus transactions can change: one frame lemma per kind of transaction. -/

namespace Sys2Proof.Machine

/-- Two states that differ at most in CMD_ERR, the record of host reads and the draw counter. -/
def sameButReport (s t : State) : Prop :=
  t = { s with cmdErr := t.cmdErr, hostReads := t.hostReads, draws := t.draws }

theorem sameButReport_refl (s : State) : sameButReport s s := rfl
theorem sameButReport_reject (s : State) : sameButReport s (reject s) := rfl
theorem sameButReport_returnWord (s : State) (v : Word) : sameButReport s (returnWord s v) := rfl
theorem sameButReport_returnByte (s : State) (v : Byte) : sameButReport s (returnByte s v) := rfl
theorem sameButReport_returnFreeWord (s : State) : sameButReport s (returnFreeWord s) := rfl
theorem sameButReport_returnFreeByte (s : State) : sameButReport s (returnFreeByte s) := rfl
theorem sameButReport_rejectRead32 (s : State) : sameButReport s (rejectRead32 s) := rfl
theorem sameButReport_rejectRead8 (s : State) : sameButReport s (rejectRead8 s) := rfl

theorem sameButReport_returnStored (s : State) (b : Option Byte) : sameButReport s (returnStored s b) := by
  cases b <;> rfl

theorem sameButReport_writeStatus (s : State) (v : Word) : sameButReport s (writeStatus s v) := by
  unfold writeStatus; split <;> rfl

/-- A 32-bit read completes and changes only what it reports (20_memory.md R69). -/
theorem execRd32_report (off : BitVec 32) (s : State) : ∃ t, execRd32 off s = .next t ∧ sameButReport s t := by
  unfold execRd32
  refine ⟨_, rfl, ?_⟩
  split
  case h_4 => split <;> rfl
  case h_6 => split <;> rfl
  all_goals rfl

/-- An 8-bit read completes and changes only what it reports (20_memory.md R69). -/
theorem execRd8_report (off : BitVec 32) (s : State) : ∃ t, execRd8 off s = .next t ∧ sameButReport s t := by
  unfold execRd8
  refine ⟨_, rfl, ?_⟩
  split
  case h_1 => split <;> first | rfl | exact sameButReport_returnStored _ _
  case h_2 => exact sameButReport_returnStored _ _
  all_goals rfl

/-- What a command written to CMD can do: a report, or one of the three commands that have an effect (44_control.md
R220). -/
theorem issueCommand_cases (v : Word) (s : State) :
    ∃ t, issueCommand v s = .next t ∧
      (sameButReport s t ∨
       (v.extractLsb' 16 16 = 0#16 ∧ ∃ i, decodeCommand (v.extractLsb' 0 16) = .ok i ∧
         ((i = .digest ∧ s.busy = false ∧ s.msgLen.toNat ≤ Config.maxMsgBytes ∧ t = acceptDigest s) ∨
          (∃ m : BitVec 8, i = .setmode m ∧ m.toNat ≤ 3 ∧ t = { s with mode := modeOfCode (m.extractLsb' 0 2) }) ∨
          (i = .togglediag ∧ t = { s with diag := !s.diag })))) := by
  unfold issueCommand
  split
  · exact ⟨_, rfl, .inl rfl⟩
  · rename_i hv
    have hv' : v.extractLsb' 16 16 = 0#16 := by simpa using hv
    split <;> rename_i hi
    case h_3 =>
      unfold execDigest
      refine ⟨_, rfl, ?_⟩
      split
      · exact .inl rfl
      · split
        · exact .inl rfl
        · rename_i hb hm
          exact .inr ⟨hv', _, hi, .inl ⟨rfl, by simpa using hb, by omega, rfl⟩⟩
    case h_4 m =>
      unfold execSetmode
      refine ⟨_, rfl, ?_⟩
      split
      · rename_i hm; exact .inr ⟨hv', _, hi, .inr (.inl ⟨m, rfl, hm, rfl⟩)⟩
      · exact .inl rfl
    case h_5 => exact ⟨_, rfl, .inr ⟨hv', _, hi, .inr (.inr ⟨rfl, rfl⟩)⟩⟩
    all_goals exact ⟨_, rfl, .inl rfl⟩

/-- What a 32-bit write can do (44_control.md R235). -/
theorem execWr32_cases (off v : BitVec 32) (s : State) :
    ∃ t, execWr32 off v s = .next t ∧
      (sameButReport s t ∨ (regionOf off = .msgLen ∧ s.busy = false ∧ t = { s with msgLen := v }) ∨
       (regionOf off = .cmd ∧ issueCommand v s = .next t)) := by
  unfold execWr32
  split
  case h_1 hr => obtain ⟨t, ht, _⟩ := issueCommand_cases v s; exact ⟨t, ht, .inr (.inr ⟨hr, ht⟩)⟩
  case h_2 => exact ⟨_, rfl, .inl (sameButReport_writeStatus s v)⟩
  case h_5 hr =>
    refine ⟨_, rfl, ?_⟩
    split
    · exact .inl rfl
    · rename_i hb; exact .inr (.inl ⟨hr, by simpa using hb, rfl⟩)
  all_goals exact ⟨_, rfl, .inl rfl⟩

/-- What an 8-bit write can do (44_control.md R237). -/
theorem execWr8_cases (off : BitVec 32) (v : Byte) (s : State) :
    ∃ t, execWr8 off v s = .next t ∧
      (sameButReport s t ∨
       ∃ k, regionOf off = .msgByte k ∧ s.busy = false ∧ t = { s with M := s.M.write k v }) := by
  unfold execWr8
  refine ⟨_, rfl, ?_⟩
  split
  case h_1 k hr =>
    split
    · exact .inl rfl
    · rename_i hb; exact .inr ⟨k, hr, by simpa using hb, rfl⟩
  all_goals exact .inl rfl

end Sys2Proof.Machine
end

