-- ==== Sys2Proof/Laws/Operands.lean ====
section
/-! SUPPORT. The address map said once: what every offset selects, and what an offset is whose region is known. -/

namespace Sys2Proof.Machine

theorem modeCode_modeOfCode (m : BitVec 2) : modeCode (modeOfCode m) = m := by revert m; decide

theorem modeOfCode_modeCode (m : DisplayMode) : modeOfCode (modeCode m) = m := by cases m <;> rfl

theorem regionOf_insideRegister {off : BitVec 32} (hr : off.toNat < 0x14 ∨ 0x20 ≤ off.toNat ∧ off.toNat < 0x40)
    (hm : off.toNat % 4 ≠ 0) : regionOf off = .insideRegister := by
  unfold regionOf
  simp only
  rw [if_neg (by omega), if_neg (by omega), if_neg (by omega), if_neg (by omega), if_neg (by omega)]
  rcases hr with hr | hr
  · rw [if_pos (by omega)]
  · rw [if_neg (by omega), if_neg (by omega), dif_pos (by omega), if_neg hm]

theorem regionOf_hash {off : BitVec 32} (j : Fin 8) (h : off.toNat = 0x20 + 4 * j.val) : regionOf off = .hash j := by
  have hj := j.isLt
  unfold regionOf
  simp only
  rw [if_neg (by omega), if_neg (by omega), if_neg (by omega), if_neg (by omega), if_neg (by omega),
    if_neg (by omega), if_neg (by omega), dif_pos (by omega), if_pos (by omega)]
  congr 1
  apply Fin.ext
  simp only
  omega

theorem regionOf_outByte {off : BitVec 32} (h1 : 0x100 ≤ off.toNat) (h2 : off.toNat < 0x200) :
    regionOf off = .outByte (off.toNat - 0x100) := by
  unfold regionOf
  simp only
  rw [if_neg (by omega), if_neg (by omega), if_neg (by omega), if_neg (by omega), if_neg (by omega),
    if_neg (by omega), if_neg (by omega), dif_neg (by omega), if_neg (by omega), if_pos (by omega)]

theorem regionOf_msgByte {off : BitVec 32} (h1 : 0x10000 ≤ off.toNat)
    (h2 : off.toNat < 0x10000 + Config.maxMsgBytes) : regionOf off = .msgByte (off.toNat - 0x10000) := by
  unfold regionOf
  simp only
  rw [if_neg (by omega), if_neg (by omega), if_neg (by omega), if_neg (by omega), if_neg (by omega),
    if_neg (by omega), if_neg (by omega), dif_neg (by omega), if_neg (by omega), if_neg (by omega),
    if_neg (by omega), if_pos (by omega)]

theorem regionOf_reserved {off : BitVec 32}
    (h : (0x14 ≤ off.toNat ∧ off.toNat < 0x20) ∨ (0x40 ≤ off.toNat ∧ off.toNat < 0x100) ∨
      (0x200 ≤ off.toNat ∧ off.toNat < 0x10000) ∨ 0x10000 + Config.maxMsgBytes ≤ off.toNat) :
    regionOf off = .reserved := by
  unfold regionOf
  simp only
  rw [if_neg (by omega), if_neg (by omega), if_neg (by omega), if_neg (by omega), if_neg (by omega),
    if_neg (by omega)]
  rcases h with h | h | h | h
  · rw [if_pos (by omega)]
  · rw [if_neg (by omega), dif_neg (by omega), if_pos (by omega)]
  · rw [if_neg (by omega), dif_neg (by omega), if_neg (by omega), if_neg (by omega), if_pos (by omega)]
  · rw [if_neg (by omega), dif_neg (by omega), if_neg (by omega), if_neg (by omega), if_neg (by omega),
      if_neg (by omega)]

/-- Every offset, with what it selects (20_memory.md R64). -/
theorem regionOf_cases (off : BitVec 32) :
    (off = 0x0000#32 ∧ regionOf off = .cmd) ∨ (off = 0x0004#32 ∧ regionOf off = .status) ∨
    (off = 0x0008#32 ∧ regionOf off = .cfg) ∨ (off = 0x000C#32 ∧ regionOf off = .outLen) ∨
    (off = 0x0010#32 ∧ regionOf off = .msgLen) ∨
    ((off.toNat < 0x14 ∨ 0x20 ≤ off.toNat ∧ off.toNat < 0x40) ∧ off.toNat % 4 ≠ 0 ∧
      regionOf off = .insideRegister) ∨
    (∃ j : Fin 8, off.toNat = 0x20 + 4 * j.val ∧ regionOf off = .hash j) ∨
    (0x100 ≤ off.toNat ∧ off.toNat < 0x200 ∧ regionOf off = .outByte (off.toNat - 0x100)) ∨
    (0x10000 ≤ off.toNat ∧ off.toNat < 0x10000 + Config.maxMsgBytes ∧
      regionOf off = .msgByte (off.toNat - 0x10000)) ∨
    (((0x14 ≤ off.toNat ∧ off.toNat < 0x20) ∨ (0x40 ≤ off.toNat ∧ off.toNat < 0x100) ∨
      (0x200 ≤ off.toNat ∧ off.toNat < 0x10000) ∨ 0x10000 + Config.maxMsgBytes ≤ off.toNat) ∧
      regionOf off = .reserved) := by
  have eq : ∀ n, n < 2 ^ 32 → off.toNat = n → off = BitVec.ofNat 32 n := fun n hn h =>
    BitVec.eq_of_toNat_eq (by rw [h, BitVec.toNat_ofNat, Nat.mod_eq_of_lt hn])
  by_cases h0 : off.toNat = 0
  · have := eq 0 (by omega) h0; subst this; exact .inl ⟨rfl, rfl⟩
  by_cases h4 : off.toNat = 4
  · have := eq 4 (by omega) h4; subst this; exact .inr (.inl ⟨rfl, rfl⟩)
  by_cases h8 : off.toNat = 8
  · have := eq 8 (by omega) h8; subst this; exact .inr (.inr (.inl ⟨rfl, rfl⟩))
  by_cases hc : off.toNat = 12
  · have := eq 12 (by omega) hc; subst this; exact .inr (.inr (.inr (.inl ⟨rfl, rfl⟩)))
  by_cases h10 : off.toNat = 16
  · have := eq 16 (by omega) h10; subst this; exact .inr (.inr (.inr (.inr (.inl ⟨rfl, rfl⟩))))
  refine .inr (.inr (.inr (.inr (.inr ?_))))
  by_cases hi : (off.toNat < 0x14 ∨ 0x20 ≤ off.toNat ∧ off.toNat < 0x40) ∧ off.toNat % 4 ≠ 0
  · exact .inl ⟨hi.1, hi.2, regionOf_insideRegister hi.1 hi.2⟩
  refine .inr ?_
  by_cases hh : 0x20 ≤ off.toNat ∧ off.toNat < 0x40
  · refine .inl ⟨⟨(off.toNat - 0x20) / 4, by omega⟩, ?_, regionOf_hash _ ?_⟩ <;> simp only <;> omega
  refine .inr ?_
  by_cases ho : 0x100 ≤ off.toNat ∧ off.toNat < 0x200
  · exact .inl ⟨ho.1, ho.2, regionOf_outByte ho.1 ho.2⟩
  refine .inr ?_
  by_cases hm : 0x10000 ≤ off.toNat ∧ off.toNat < 0x10000 + Config.maxMsgBytes
  · exact .inl ⟨hm.1, hm.2, regionOf_msgByte hm.1 hm.2⟩
  exact .inr ⟨by omega, regionOf_reserved (by omega)⟩

theorem regionOf_eq_cmd {off : BitVec 32} (h : regionOf off = .cmd) : off = 0x0000#32 := by
  rcases regionOf_cases off with ⟨e, c⟩ | ⟨e, c⟩ | ⟨e, c⟩ | ⟨e, c⟩ | ⟨e, c⟩ | ⟨_, _, c⟩ | ⟨_, _, c⟩ | ⟨_, _, c⟩ |
    ⟨_, _, c⟩ | ⟨_, c⟩ <;> rw [h] at c <;> first | exact e | cases c

theorem regionOf_eq_status {off : BitVec 32} (h : regionOf off = .status) : off = 0x0004#32 := by
  rcases regionOf_cases off with ⟨e, c⟩ | ⟨e, c⟩ | ⟨e, c⟩ | ⟨e, c⟩ | ⟨e, c⟩ | ⟨_, _, c⟩ | ⟨_, _, c⟩ | ⟨_, _, c⟩ |
    ⟨_, _, c⟩ | ⟨_, c⟩ <;> rw [h] at c <;> first | exact e | cases c

theorem regionOf_eq_msgByte {off : BitVec 32} {k : Nat} (h : regionOf off = .msgByte k) :
    off.toNat = 0x10000 + k ∧ k < Config.maxMsgBytes := by
  rcases regionOf_cases off with ⟨_, c⟩ | ⟨_, c⟩ | ⟨_, c⟩ | ⟨_, c⟩ | ⟨_, c⟩ | ⟨_, _, c⟩ | ⟨_, _, c⟩ | ⟨_, _, c⟩ |
    ⟨h1, h2, c⟩ | ⟨_, c⟩ <;> rw [h] at c
  case inr.inr.inr.inr.inr.inr.inr.inr.inl => have := Region.msgByte.inj c; omega
  all_goals exact absurd c (by simp)

end Sys2Proof.Machine
end

