-- ==== Sys2Proof/Laws/PerInstr.lean ====
section
/-! SUPPORT. Statements about every instruction as syntax, one lemma per constructor: who issues an instruction can be
read off its encoded form (30_encoding.md R91, R93, R97). -/

namespace Sys2Proof.Laws.Issuer

/-- UNIT 0 is the host's, UNIT 1 to 5 the sequencer's, and a transaction is no command word. -/
def Statement (i : Instr) : Prop :=
  match encode i with
  | .command w => i.issuer = if unitOf w = 0#4 then .hostCommand else .sequencer
  | .bus _ => i.issuer = .hostBus

theorem nop : Statement .nop := rfl
theorem digest : Statement .digest := rfl
theorem setmode (m : BitVec 8) : Statement (.setmode m) := by
  simp [Statement, encode, commandWord, Instr.issuer]
theorem togglediag : Statement .togglediag := rfl
theorem pad : Statement .pad := rfl
theorem loadw (t : BitVec 8) : Statement (.loadw t) := by simp [Statement, encode, commandWord, Instr.issuer]
theorem expw (t : BitVec 8) : Statement (.expw t) := by simp [Statement, encode, commandWord, Instr.issuer]
theorem ldiv : Statement .ldiv := rfl
theorem initwv : Statement .initwv := rfl
theorem round (i : BitVec 8) : Statement (.round i) := by simp [Statement, encode, commandWord, Instr.issuer]
theorem ffwd : Statement .ffwd := rfl
theorem loopblk (tgt : BitVec 8) : Statement (.loopblk tgt) := by
  simp [Statement, encode, commandWord, Instr.issuer]
theorem endRun : Statement .endRun := rfl
theorem fmt : Statement .fmt := rfl
theorem diagp : Statement .diagp := rfl
theorem diagw : Statement .diagw := rfl
theorem rd32 (off : BitVec 32) : Statement (.rd32 off) := rfl
theorem wr32 (off v : BitVec 32) : Statement (.wr32 off v) := rfl
theorem rd8 (off : BitVec 32) : Statement (.rd8 off) := rfl
theorem wr8 (off : BitVec 32) (v : BitVec 8) : Statement (.wr8 off v) := rfl

end Sys2Proof.Laws.Issuer
end

