-- ==== Sys2Proof/Laws/Step.lean ====
section
/-! SUPPORT. What one step can do, said once: the agent whose turn it is, and what its step performs. -/

namespace Sys2Proof.Machine

/-- The state after the turn that moves has been taken off the pending turns. -/
def popTurn (s : State) : State := { s with turns := s.turns.tail }

@[simp] theorem popTurn_busy (s : State) : (popTurn s).busy = s.busy := rfl
@[simp] theorem popTurn_upc (s : State) : (popTurn s).upc = s.upc := rfl
@[simp] theorem popTurn_turns (s : State) : (popTurn s).turns = s.turns.tail := rfl

@[simp] theorem turnsTaken_zero (s : State) : s.turnsTaken 0 = [] := by simp [State.turnsTaken]

/-- The turns of `k + 1` steps are the next turn, then those of `k` steps. -/
theorem turnsTaken_succ (s : State) (k : Nat) : s.turnsTaken (k + 1) = s.nextTurn :: (popTurn s).turnsTaken k := by
  cases h : s.turns <;> simp [State.turnsTaken, State.nextTurn, h, List.replicate_succ]

/-- The turns of `k` steps depend on the pending turns only. -/
theorem turnsTaken_congr {s t : State} (h : s.turns = t.turns) (k : Nat) : s.turnsTaken k = t.turnsTaken k := by
  simp [State.turnsTaken, h]

theorem nextAction_core {s : State} (h : s.nextTurn = .core) : nextAction s = coreAction (popTurn s) := by
  obtain ⟨H, wv, W, M, msgLen, P, plen, nblk, bp, upc, busy, done, cmdErr, mode, diag, smode, sdiag, out, outLen,
    diagStream, turns, hostReads, draws⟩ := s
  cases turns with
  | nil => rfl
  | cons x rest => simp only [State.nextTurn, List.headD_cons] at h; subst h; rfl

theorem nextAction_host {s : State} {x : BusTxn} (h : s.nextTurn = .host x) :
    nextAction s = hostAction x (popTurn s) := by
  unfold nextAction popTurn
  cases ht : s.turns with
  | nil => simp [State.nextTurn, ht] at h
  | cons y rest => simp only [State.nextTurn, ht, List.headD_cons] at h; subst h; rfl

theorem nextAction_reset {s : State} (h : s.nextTurn = .reset) : nextAction s = .reset (popTurn s) := by
  unfold nextAction popTurn
  cases ht : s.turns with
  | nil => simp [State.nextTurn, ht] at h
  | cons y rest => simp only [State.nextTurn, ht, List.headD_cons] at h; subst h; rfl

/-- A core step while BUSY = 1 (44_control.md R227). -/
theorem step_core {s : State} {w : CmdWord} {i : Instr} (ht : s.nextTurn = .core) (hb : s.busy = true)
    (hw : uprogWord s.upc = some w) (hi : decodeCommand w = .ok i) : step s = exec i (popTurn s) := by
  simp only [step, nextAction_core ht, coreAction, popTurn_busy, popTurn_upc, hb, hw, hi, if_true]

/-- No core step while BUSY = 0 (44_control.md R227). -/
theorem step_idle {s : State} (ht : s.nextTurn = .core) (hb : s.busy = false) : step s = .next (popTurn s) := by
  simp [step, nextAction_core ht, coreAction, hb]

/-- A host step (44_control.md R227). -/
theorem step_host {s : State} {x : BusTxn} {i : Instr} (ht : s.nextTurn = .host x) (hi : decodeBus x = .ok i) :
    step s = exec i (popTurn s) := by
  simp only [step, nextAction_host ht, hostAction, hi]

/-- The reset input (70_reset_and_hazards.md R291). -/
theorem step_reset {s : State} (ht : s.nextTurn = .reset) : step s = .next (resetInput (popTurn s)) := by
  simp only [step, nextAction_reset ht]

/-- What a step that answers a next state has done: one of four things. -/
theorem step_cases {s t : State} (h : step s = .next t) :
    (s.nextTurn = .core ∧ s.busy = false ∧ t = popTurn s) ∨
    (s.nextTurn = .core ∧ s.busy = true ∧
      ∃ w i, uprogWord s.upc = some w ∧ decodeCommand w = .ok i ∧ exec i (popTurn s) = .next t) ∨
    (∃ x i, s.nextTurn = .host x ∧ decodeBus x = .ok i ∧ exec i (popTurn s) = .next t) ∨
    (s.nextTurn = .reset ∧ t = resetInput (popTurn s)) := by
  cases ht : s.nextTurn with
  | core =>
    cases hb : s.busy with
    | false =>
      rw [step_idle ht hb] at h
      exact .inl ⟨rfl, rfl, (Host.Outcome.next.inj h).symm⟩
    | true =>
      refine .inr (.inl ⟨rfl, rfl, ?_⟩)
      simp only [step, nextAction_core ht, coreAction, popTurn_busy, popTurn_upc, hb, if_true] at h
      cases hw : uprogWord s.upc with
      | none => simp [hw] at h
      | some w =>
        cases hi : decodeCommand w with
        | error e => simp [hw, hi] at h
        | ok i => simp only [hw, hi] at h; exact ⟨w, i, rfl, hi, h⟩
  | host x =>
    refine .inr (.inr (.inl ?_))
    simp only [step, nextAction_host ht, hostAction] at h
    cases hi : decodeBus x with
    | error e => simp [hi] at h
    | ok i => simp only [hi] at h; exact ⟨x, i, rfl, hi, h⟩
  | reset =>
    rw [step_reset ht] at h
    exact .inr (.inr (.inr ⟨rfl, (Host.Outcome.next.inj h).symm⟩))

end Sys2Proof.Machine
end

