-- ==== Sys2Proof/Laws/Text.lean ====
section
/-! SUPPORT. The texts of the formatter: lengths of the numerals and of the whole text. -/

namespace Sys2Proof.Machine

@[simp] theorem hex8_length (x : Word) : (hex8 x).length = 8 := by simp [hex8]

theorem numeralDigits_length_le (base fuel n : Nat) : (numeralDigits base fuel n).length ≤ fuel := by
  induction fuel generalizing n with
  | zero => simp [numeralDigits]
  | succ f ih =>
    simp only [numeralDigits]
    split
    · simp
    · have := ih (n / base)
      simp only [List.length_append, List.length_cons, List.length_nil]
      omega

theorem numeralDigits_length_pos {base fuel : Nat} (n : Nat) (h : 0 < fuel) :
    0 < (numeralDigits base fuel n).length := by
  cases fuel with
  | zero => omega
  | succ f => simp only [numeralDigits]; split <;> simp

theorem numeralDigits_lt {base : Nat} (hb : 0 < base) (fuel n : Nat) : ∀ d ∈ numeralDigits base fuel n, d < base := by
  induction fuel generalizing n with
  | zero => simp [numeralDigits]
  | succ f ih =>
    intro d hd
    simp only [numeralDigits] at hd
    split at hd
    · rename_i h; simp only [List.mem_singleton] at hd; omega
    · rcases List.mem_append.1 hd with hd | hd
      · exact ih _ d hd
      · simp only [List.mem_singleton] at hd; subst hd; exact Nat.mod_lt _ hb

/-- A numeral stands for its number when the fuel suffices. -/
theorem numeralDigits_value (base fuel n : Nat) (h : n < base ^ fuel) :
    (numeralDigits base fuel n).foldl (fun v d => v * base + d) 0 = n := by
  induction fuel generalizing n with
  | zero => simp at h; subst h; rfl
  | succ f ih =>
    simp only [numeralDigits]
    split
    · simp
    · rw [List.foldl_append, ih (n / base) (by rw [Nat.pow_succ] at h; exact Nat.div_lt_of_lt_mul (by rwa [Nat.mul_comm] at h))]
      simp only [List.foldl_cons, List.foldl_nil]
      rw [Nat.mul_comm]; exact Nat.div_add_mod n base

theorem binNumeral_length_le (x : Word) : (binNumeral x).length ≤ 32 := by
  simpa [binNumeral] using numeralDigits_length_le 2 32 x.toNat

theorem decNumeral_length_le (x : Word) : (decNumeral x).length ≤ 10 := by
  simpa [decNumeral] using numeralDigits_length_le 10 10 x.toNat

theorem binNumeral_length_pos (x : Word) : 0 < (binNumeral x).length := by
  simpa [binNumeral] using numeralDigits_length_pos (base := 2) x.toNat (show 0 < 32 by omega)

theorem decNumeral_length_pos (x : Word) : 0 < (decNumeral x).length := by
  simpa [decNumeral] using numeralDigits_length_pos (base := 10) x.toNat (show 0 < 10 by omega)

theorem charPlaceholder_length : Config.charPlaceholder.length = Config.placeholderLenPred.val + 1 := by
  simp [Config.charPlaceholder]

/-- The eight words of a hash state, as a list. -/
theorem hash_toList (H : Vector Word 8) : H.toList = [H[0], H[1], H[2], H[3], H[4], H[5], H[6], H[7]] := by
  apply List.ext_getElem
  · simp
  · intro i h1 h2
    have : i < 8 := by simpa using h1
    interval_cases i <;> simp

/-- A text fits OUT: at most 256 bytes (00_scope.md R7, OUT_BYTES). -/
theorem textOf_length_le (mode : DisplayMode) (H : Vector Word 8) : (textOf mode H).length ≤ 256 := by
  cases mode with
  | hexadecimal => simp [textOf, hash_toList]
  | character => simp only [textOf, charPlaceholder_length]; omega
  | binary =>
    have h := fun j : Fin 8 => binNumeral_length_le H[j]
    have h0 := h 0; have h1 := h 1; have h2 := h 2; have h3 := h 3
    have h4 := h 4; have h5 := h 5; have h6 := h 6; have h7 := h 7
    simp [textOf, hash_toList] at *
    omega
  | integer =>
    have h := fun j : Fin 8 => decNumeral_length_le H[j]
    have h0 := h 0; have h1 := h 1; have h2 := h 2; have h3 := h 3
    have h4 := h 4; have h5 := h 5; have h6 := h 6; have h7 := h 7
    simp [textOf, hash_toList] at *
    omega

end Sys2Proof.Machine
end

