-- ==== Sys2Proof/Tests/Slice0.lean ====
section
/-! SUPPORT. Tests. Expected values come from the spec: the encodings from 30_encoding.md R93, the vectors from
95_test_vectors.md, 41_schedule.md R146 and 42_compression.md R178. The `witness_` theorems show, for each obligation
that has hypotheses, values that meet them. -/

namespace Sys2Proof.Tests

open Sys2Proof.Machine Sys2Proof.Claims

/-! ### WellFormed -/

theorem wf_refuses_loadw_16 : (Instr.loadw 16#8).wf = false := by decide
theorem wf_refuses_expw_15 : (Instr.expw 15#8).wf = false := by decide
theorem wf_refuses_expw_64 : (Instr.expw 64#8).wf = false := by decide
theorem wf_refuses_round_64 : (Instr.round 64#8).wf = false := by decide
theorem wf_refuses_loopblk_137 : (Instr.loopblk 137#8).wf = false := by decide
theorem wf_accepts_setmode_255 : (Instr.setmode 255#8).wf = true := by decide

/-! ### Decoding, from words written out bit by bit (R93) -/

/-- The decoder of command words gives `i`. -/
def decodesTo (w : CmdWord) (i : Instr) : Bool :=
  match decodeCommand w with
  | .ok j => j == i
  | .error _ => false

/-- The decoder of command words refuses with `e`. -/
def decodeFails (w : CmdWord) (e : DecodeError) : Bool :=
  match decodeCommand w with
  | .ok _ => false
  | .error d => d == e

theorem test_decode_nop : decodesTo 0b0000000000000000#16 .nop = true := by decide
theorem test_decode_digest : decodesTo 0b0000000100000000#16 .digest = true := by decide
theorem test_decode_setmode : decodesTo 0b0000001000000011#16 (.setmode 3#8) = true := by decide
theorem test_decode_setmode_255 : decodesTo 0b0000001011111111#16 (.setmode 255#8) = true := by decide
theorem test_decode_togglediag : decodesTo 0b0000001100000000#16 .togglediag = true := by decide
theorem test_decode_pad : decodesTo 0b0001000000000000#16 .pad = true := by decide
theorem test_decode_loadw : decodesTo 0b0010000000001111#16 (.loadw 15#8) = true := by decide
theorem test_decode_expw_16 : decodesTo 0b0010000100010000#16 (.expw 16#8) = true := by decide
theorem test_decode_expw_63 : decodesTo 0b0010000100111111#16 (.expw 63#8) = true := by decide
theorem test_decode_ldiv : decodesTo 0b0011000000000000#16 .ldiv = true := by decide
theorem test_decode_initwv : decodesTo 0b0011000100000000#16 .initwv = true := by decide
theorem test_decode_round : decodesTo 0b0011001000111111#16 (.round 63#8) = true := by decide
theorem test_decode_ffwd : decodesTo 0b0011001100000000#16 .ffwd = true := by decide
theorem test_decode_loopblk : decodesTo 0b0100000000000011#16 (.loopblk 3#8) = true := by decide
theorem test_decode_end : decodesTo 0b0100111100000000#16 .endRun = true := by decide
theorem test_decode_fmt : decodesTo 0b0101000000000000#16 .fmt = true := by decide
theorem test_decode_diagp : decodesTo 0b0101000100000000#16 .diagp = true := by decide
theorem test_decode_diagw : decodesTo 0b0101001000000000#16 .diagw = true := by decide
theorem test_decode_rd32 : decode (.bus ⟨.read, .w32, 0x20#32, none⟩) = .ok (.rd32 0x20#32) := rfl
theorem test_decode_wr32 : decode (.bus ⟨.write, .w32, 0x10#32, some 3#32⟩) = .ok (.wr32 0x10#32 3#32) := rfl
theorem test_decode_rd8 : decode (.bus ⟨.read, .w8, 0x100#32, none⟩) = .ok (.rd8 0x100#32) := rfl
theorem test_decode_wr8 : decode (.bus ⟨.write, .w8, 0x10000#32, some 0x61#32⟩) = .ok (.wr8 0x10000#32 0x61#8) := rfl

theorem test_illegal_unit : decodeFails 0x6000#16 .reservedUnit = true := by decide
theorem test_illegal_func : decodeFails 0x4E00#16 .reservedFunc = true := by decide
theorem test_illegal_digest_imm : decodeFails 0x0101#16 .illegalOperand = true := by decide
theorem test_illegal_expw_0 : decodeFails 0x2100#16 .illegalOperand = true := by decide
theorem test_wide_byte_write : decode (.bus ⟨.write, .w8, 0#32, some 256#32⟩) = .error .valueTooWide := rfl

theorem test_table_word : decodeTableWord 16 0x323F = some (.round 63#8) := by decide
theorem test_table_word_illegal : decodeTableWord 16 0x2100 = none := by decide
theorem test_table_bus_rd8 : decodeTableWord 40 (0x100 * 2 ^ 8) = some (.rd8 0x100#32) := by decide
theorem test_table_bus_wr32 :
    decodeTableWord 72 (3 * 2 ^ 40 + 0x10 * 2 ^ 8 + 3) = some (.wr32 0x10#32 3#32) := by decide

/-! ### The functions (R146, R178) -/

theorem test_sigma0 : sigma0 0x12345678#32 = 0xE7FCE6EE#32 ∧ sigma0 0x80000000#32 = 0x11002000#32 := by decide
theorem test_sigma1 : sigma1 0x12345678#32 = 0xA1F78649#32 ∧ sigma1 0x80000000#32 = 0x00205000#32 := by decide
theorem test_bigSigma0 : bigSigma0 0x12345678#32 = 0x66146474#32 ∧ bigSigma0 1#32 = 0x40080400#32 := by decide
theorem test_bigSigma1 : bigSigma1 0x12345678#32 = 0x3561ABDA#32 ∧ bigSigma1 1#32 = 0x04200080#32 := by decide
theorem test_ch : ch 0xF0F0F0F0#32 0xAAAAAAAA#32 0x55555555#32 = 0xA5A5A5A5#32 := by decide
theorem test_maj : maj 0xF0F0F0F0#32 0xCCCCCCCC#32 0xAAAAAAAA#32 = 0xE8E8E8E8#32 := by decide

/-! ### States -/

/-- A property of the next state a result gives. -/
def gives (r : Result) (p : State → Bool) : Bool :=
  match r with
  | .next t => p t
  | .fault _ => false
  | .refused _ => false

/-- The message "abc". -/
def abc : List Byte := [0x61#8, 0x62#8, 0x63#8]

/-- Reset, with a message written and MSG_LEN set. -/
def holding (msg : List Byte) : State :=
  { State.reset with M := Memory.writeList [] 0 msg, msgLen := BitVec.ofNat 32 msg.length }

/-- A run on a message, just accepted, in Hexadecimal. -/
def started (msg : List Byte) : State := acceptDigest (holding msg)

/-- The run on "abc" after PAD, DIAGP, LDIV. -/
def abcBlock : State :=
  { started abc with P := padMessage abc, plen := 64#64, nblk := 1#64, H := initialHash, upc := 3#8 }

/-- A hash state of the words 1..8. -/
def counting : Vector Word 8 := #v[1#32, 2#32, 3#32, 4#32, 5#32, 6#32, 7#32, 8#32]

/-- All ones in every working variable and schedule word. -/
def allOnes : State :=
  let x := 0xFFFFFFFF#32
  { State.reset with H := Vector.replicate 8 x, W := Vector.replicate 64 x, wv := ⟨x, x, x, x, x, x, x, x⟩ }

theorem test_reset_memory : State.reset.M.wf = true ∧ State.reset.out.wf = true := by decide

theorem test_binary_text : (textOf .binary counting).map (·.toNat - 0x30) =
    [1, 1, 0, 1, 1, 1, 0, 0, 1, 0, 1, 1, 1, 0, 1, 1, 1, 1, 0, 0, 0] := by decide

/-! ### Instructions (95_test_vectors.md) -/

theorem test_pad_abc : gives (exec .pad (started abc)) (fun t =>
    t.P == [0x61#8, 0x62#8, 0x63#8, 0x80#8] ++ List.replicate 59 0#8 ++ [0x18#8] && t.plen == 64#64 && t.nblk == 1#64)
    = true := by decide
theorem test_pad_56 : gives (exec .pad (started (List.replicate 56 0x61#8))) (fun t =>
    t.P[56]? == some 0x80#8 && t.P.drop 120 == [0#8, 0#8, 0#8, 0#8, 0#8, 0#8, 0x01#8, 0xC0#8] && t.nblk == 2#64)
    = true := by decide
theorem test_loadw_0 : gives (exec (.loadw 0#8) abcBlock) (fun t => t.W[0] == 0x61626380#32) = true := by decide
theorem test_loadw_15 : gives (exec (.loadw 15#8) abcBlock) (fun t => t.W[15] == 0x18#32 && t.upc == 4#8) = true := by
  decide
theorem test_expw_all_ones : gives (exec (.expw 16#8) allOnes) (fun t => t.W[16] == 0x203FFFFC#32) = true := by decide
theorem test_expw_18_empty : gives (exec (.expw 18#8) { State.reset with W := State.reset.W.set 16 0x80000000#32 })
    (fun t => t.W[18] == 0x00205000#32) = true := by decide
theorem test_ldiv : gives (exec .ldiv allOnes)
    (fun t => t.H[0] == 0x6A09E667#32 && t.H[7] == 0x5BE0CD19#32) = true := by decide
theorem test_initwv : gives (exec .initwv { State.reset with H := counting })
    (fun t => t.wv == ⟨1#32, 2#32, 3#32, 4#32, 5#32, 6#32, 7#32, 8#32⟩) = true := by decide
theorem test_round_0_abc : gives (exec (.round 0#8)
      { abcBlock with wv := workVarsOf initialHash, W := State.reset.W.set 0 0x61626380#32 })
    (fun t => t.wv == ⟨0x5D6AEBCD#32, 0x6A09E667#32, 0xBB67AE85#32, 0x3C6EF372#32,
      0xFA2A4622#32, 0x510E527F#32, 0x9B05688C#32, 0x1F83D9AB#32⟩) = true := by decide
theorem test_round_63_all_ones : gives (exec (.round 63#8) allOnes)
    (fun t => t.wv.a == 0xC67178EC#32 && t.wv.e == 0xC67178ED#32 && t.wv.b == 0xFFFFFFFF#32) = true := by decide
theorem test_ffwd_lane_wrap : gives (exec .ffwd { allOnes with wv := { allOnes.wv with a := 0#32, h := 1#32 } })
    (fun t => t.H[0] == 0xFFFFFFFF#32 && t.H[7] == 0#32 && t.H[6] == 0xFFFFFFFE#32 && t.bp == 1#64) = true := by decide
theorem test_loopblk_taken : gives (exec (.loopblk 3#8) { abcBlock with upc := 134#8, bp := 1#64, nblk := 2#64 })
    (fun t => t.upc == 3#8) = true := by decide
theorem test_loopblk_done : gives (exec (.loopblk 3#8) { abcBlock with upc := 134#8, bp := 1#64 })
    (fun t => t.upc == 135#8) = true := by decide
theorem test_end : gives (exec .endRun { abcBlock with upc := 136#8 })
    (fun t => statusWord t == 2#32 && t.upc == 136#8) = true := by decide
theorem test_fmt_hex : gives (exec .fmt { State.reset with H := counting, smode := .hexadecimal })
    (fun t => t.outLen == 64#9 && t.out.read 7 == some 0x31#8 && t.out.read 62 == some 0x30#8 && t.out.read 64 == none)
    = true := by decide
theorem test_fmt_int : gives (exec .fmt { State.reset with H := counting, smode := .integer })
    (fun t => t.out == [(0, 0x31#8), (1, 0x32#8), (2, 0x33#8), (3, 0x34#8), (4, 0x35#8), (5, 0x36#8), (6, 0x37#8),
      (7, 0x38#8)] && t.outLen == 8#9) = true := by decide
theorem test_diagp : gives (exec .diagp { abcBlock with sdiag := true })
    (fun t => t.diagStream == [.padded (padMessage abc)]) = true := by decide
theorem test_diagw_off : gives (exec .diagw abcBlock) (fun t => t.diagStream == [] && t.upc == 4#8) = true := by decide
theorem test_diagw_on : gives (exec .diagw { allOnes with sdiag := true, bp := 1#64 })
    (fun t => t.diagStream == [.schedule 1#64 (Vector.replicate 64 0xFFFFFFFF#32)]) = true := by decide
theorem test_digest_busy : gives (exec .digest (started abc)) (fun t => statusWord t == 5#32) = true := by decide
theorem test_setmode_3 : gives (exec (.setmode 3#8) State.reset) (fun t => cfgWord t == 3#32) = true := by decide
theorem test_setmode_7 : gives (exec (.setmode 7#8) State.reset)
    (fun t => cfgWord t == 1#32 && statusWord t == 4#32) = true := by decide
theorem test_togglediag : gives (exec .togglediag State.reset) (fun t => cfgWord t == 5#32) = true := by decide
theorem test_cmd_pad_rejected : gives (exec (.wr32 0#32 0x1000#32) State.reset)
    (fun t => statusWord t == 4#32 && t.P == []) = true := by decide
theorem test_wr32_msglen : gives (exec (.wr32 0x10#32 3#32) State.reset) (fun t => t.msgLen == 3#32) = true := by decide
theorem test_rd32_cfg : gives (exec (.rd32 0x8#32) State.reset) (fun t => t.hostReads == [.word 1#32]) = true := by decide
theorem test_rd32_misaligned : gives (exec (.rd32 0x2#32) State.reset)
    (fun t => t.hostReads == [.word 0#32] && t.cmdErr) = true := by decide
theorem test_rd8_register : gives (exec (.rd8 0x4#32) State.reset)
    (fun t => t.hostReads == [.byte 0#8] && t.cmdErr) = true := by decide
theorem test_wr8_out : gives (exec (.wr8 0x100#32 0#8) State.reset) (fun t => t.cmdErr && t.out == []) = true := by decide

/-! ### Placing an instruction before the step -/

theorem test_place_micro : gives (step (State.reset.withFetchWord 16 0x3000)) (fun t => t.H == initialHash) = true := by
  decide
theorem test_place_command : gives (step (State.reset.withFetchWord 16 0x0300)) (fun t => t.diag) = true := by decide
theorem test_place_bus : gives (step (State.reset.withFetchWord 40 (0x4 * 2 ^ 8 + 2)))
    (fun t => t.hostReads == [.word 0#32]) = true := by decide

/-! ### Witnesses: values that meet the hypotheses of each obligation that has some -/

theorem witness_DecodeOfEncodeIsTheInstruction : (Instr.loadw 15#8).wf = true ∧ (Instr.expw 16#8).wf = true ∧
    (Instr.expw 63#8).wf = true ∧ (Instr.round 63#8).wf = true ∧ (Instr.loopblk 136#8).wf = true ∧
    (Instr.setmode 255#8).wf = true ∧ (Instr.wr8 0xFFFFFFFF#32 255#8).wf = true := by decide

theorem witness_EncodeOfDecodeIsTheForm :
    decode (.command 0x213F#16) = .ok (.expw 63#8) ∧
    decode (.bus ⟨.write, .w8, 0x10000#32, some 255#32⟩) = .ok (.wr8 0x10000#32 255#8) := ⟨rfl, rfl⟩

theorem witness_DecoderFollowsTheOpcodeMap :
    (∃ i, decodeCommand 0x4088#16 = .ok i) ∧
    ∃ r ∈ opcodeMap, 0x4088#16 &&& r.mask = r.matchBits ∧ r.lo ≤ (0x4088#16).toNat % 256 ∧
      (0x4088#16).toNat % 256 ≤ r.hi := ⟨⟨_, rfl⟩, by decide⟩

theorem witness_MicroProgramTable :
    (0 < 16 ∧ 15 < 16) ∧ (16 ≤ 16 ∧ 63 < 64) ∧ (0 < 64 ∧ 63 < 64) ∧ 137 ≤ (137#8).toNat ∧ 137 ≤ (255#8).toNat := by
  decide

theorem witness_StepRunsTheDecodedInstruction :
    ((started abc).busy = true ∧ (started abc).turns = [] ∧ uprogWord (started abc).upc = some 0x1000#16 ∧
      decodeCommand 0x1000#16 = .ok .pad) ∧
    (∃ rest, { started abc with turns := [.core, .reset] }.turns = .core :: rest) ∧
    (State.reset.busy = false ∧ State.reset.turns = []) ∧
    (∃ rest, { State.reset with turns := [.core] }.turns = .core :: rest) ∧
    (∃ rest, { State.reset with turns := [cmdWrite 0x0100#32] }.turns = cmdWrite 0x0100#32 :: rest) ∧
    decodeBus ⟨.write, .w32, 0x0000#32, some 0x0100#32⟩ = .ok (.wr32 0x0000#32 0x0100#32) :=
  ⟨⟨rfl, rfl, rfl, rfl⟩, ⟨_, rfl⟩, ⟨rfl, rfl⟩, ⟨_, rfl⟩, ⟨_, rfl⟩, rfl⟩

theorem witness_ResetInputAbandonsTheRun : ∃ rest, { started abc with turns := [.reset] }.turns = .reset :: rest :=
  ⟨_, rfl⟩

theorem holding_abc : (holding abc).holdsMessage abc := ⟨by decide, by decide⟩
theorem started_abc : (started abc).holdsMessage abc := ⟨by decide, by decide⟩
theorem holding_empty : (holding []).holdsMessage [] := ⟨by decide, by decide⟩
theorem holding_55 : (holding (List.replicate 55 0x61#8)).holdsMessage (List.replicate 55 0x61#8) :=
  ⟨by decide, by decide⟩
theorem holding_56 : (holding (List.replicate 56 0x61#8)).holdsMessage (List.replicate 56 0x61#8) :=
  ⟨by decide, by decide⟩

theorem witness_PadBuildsThePaddedBuffer :
    ((holding abc).holdsMessage abc ∧ 52 < 64 ∧ (abc.length + 1 + 52) % 64 = 56) ∧
    ((holding []).holdsMessage [] ∧ 55 < 64 ∧ (([] : List Byte).length + 1 + 55) % 64 = 56) ∧
    ((holding (List.replicate 55 0x61#8)).holdsMessage (List.replicate 55 0x61#8) ∧ 0 < 64 ∧
      ((List.replicate 55 (0x61#8 : Byte)).length + 1 + 0) % 64 = 56) ∧
    ((holding (List.replicate 56 0x61#8)).holdsMessage (List.replicate 56 0x61#8) ∧ 63 < 64 ∧
      ((List.replicate 56 (0x61#8 : Byte)).length + 1 + 63) % 64 = 56) :=
  ⟨⟨holding_abc, by decide⟩, ⟨holding_empty, by decide⟩, ⟨holding_55, by decide⟩, ⟨holding_56, by decide⟩⟩

theorem witness_PadCompletesWithThePaddingInvariant :
    2 < (holding abc).msgLen.toNat ∧ (holding abc).M.read 2 = some 0x63#8 := by decide

theorem witness_PadBlockCount :
    { State.reset with msgLen := 55#32 }.msgLen.toNat % 64 ≤ 55 ∧
    56 ≤ { State.reset with msgLen := 56#32 }.msgLen.toNat % 64 := by decide

theorem witness_ZeroCountIsLeast : (55 + 1 + 0) % 64 = 56 ∧ (56 + 1 + 63) % 64 = 56 := by decide

theorem witness_LoadwLoadsTheBigEndianWord :
    (abcBlock.P[64 * abcBlock.bp.toNat + 4 * (0#8).toNat]? = some 0x61#8 ∧
      abcBlock.P[64 * abcBlock.bp.toNat + 4 * (0#8).toNat + 3]? = some 0x80#8) ∧
    ((15#8).toNat ≤ 15 ∧ abcBlock.P[64 * abcBlock.bp.toNat + 4 * (15#8).toNat]? = some 0#8 ∧
      abcBlock.P[64 * abcBlock.bp.toNat + 4 * (15#8).toNat + 1]? = some 0#8 ∧
      abcBlock.P[64 * abcBlock.bp.toNat + 4 * (15#8).toNat + 2]? = some 0#8 ∧
      abcBlock.P[64 * abcBlock.bp.toNat + 4 * (15#8).toNat + 3]? = some 0x18#8) := by decide

theorem witness_ExpwDerivesTheWord :
    (16 ≤ (16#8).toNat ∧ (16#8).toNat ≤ 63) ∧ (16 ≤ (63#8).toNat ∧ (63#8).toNat ≤ 63) := by decide

theorem witness_IllegalOperandsAreRefused : (Instr.expw 64#8).wf = false ∧
    exec (.expw 64#8) State.reset = .refused .illegalOperand := ⟨by decide, rfl⟩

theorem witness_ScheduleOfTheCurrentBlock : 64 * abcBlock.bp.toNat + 64 ≤ abcBlock.P.length := by decide

theorem witness_RotrMovesEveryBit : (0 < 1 ∧ 1 < 32 ∧ 31 < 32) ∧ (0 < 31 ∧ 31 < 32 ∧ 0 < 32) := by decide

theorem witness_CoreFunctionsBitByBit : 0 < 32 ∧ 31 < 32 := by decide

theorem witness_ConstantsComeFromThePrimes :
    311 ≤ 311 ∧ firstPrimes[0]? = some 2 ∧ firstPrimes[63]? = some 311 ∧ firstPrimes[7]? = some 19 := by decide

theorem witness_RoundUpdatesTheWorkingVariables : (0#8).toNat ≤ 63 ∧ (63#8).toNat ≤ 63 := by decide

theorem witness_FfwdAddsLaneByLane :
    (lanes allOnes.wv)[0]? = some 0xFFFFFFFF#32 ∧ (lanes allOnes.wv)[7]? = some 0xFFFFFFFF#32 := by decide

theorem witness_FmtWritesTheText : (textOf .binary counting).length ≤ 21 := by decide

theorem witness_HexTextIsSixtyFourDigits :
    8 = counting[7].toNat / 16 ^ (7 - 7) % 16 ∧ 15 = allOnes.H[0].toNat / 16 ^ (7 - 0) % 16 := by decide

theorem witness_IntegerTextOfNumerals : (decNumeral 0#32).head? = some 0x30#8 := by decide

theorem witness_DiagnosticEventsAreEmitted : abcBlock.plen.toNat = abcBlock.P.length := by decide

/-- Memories with nothing or one cell listed meet the canonical form; a run just accepted meets the invariant. -/
theorem inv_started (sdiag : Bool) (ts : List Turn) (stream : List DiagEvent) :
    Inv { started [0x61#8] with sdiag := sdiag, turns := ts, diagStream := stream } where
  msgCanonical := show (started [0x61#8]).M.wf = true by decide
  outCanonical := show (started [0x61#8]).out.wf = true by decide
  msgInWindow := by
    intro c hc
    have : c = (0, 0x61#8) := by simpa [started, acceptDigest, holding, Memory.writeList, Memory.write] using hc
    subst this
    show 0 < Config.maxMsgBytes
    unfold Config.maxMsgBytes; omega
  outInWindow := by intro c hc; simp [started, acceptDigest, holding, State.reset] at hc
  outLenBound := show (started [0x61#8]).outLen.toNat ≤ 256 by decide
  textWritten := fun k h => absurd h (by simp [started, acceptDigest, holding, State.reset])
  plenIsLength := show (started [0x61#8]).plen.toNat = (started [0x61#8]).P.length by decide
  plenMultiple := show (started [0x61#8]).plen.toNat % 64 = 0 by decide
  nblkIsBlocks := show (started [0x61#8]).nblk.toNat = (started [0x61#8]).plen.toNat / 64 by decide
  paddedFits := by simp [started, acceptDigest, holding, State.reset]
  notBusyAndDone := by simp [started, acceptDigest, holding, State.reset]
  bpInRange := show (started [0x61#8]).bp.toNat ≤ (started [0x61#8]).nblk.toNat by decide
  upcInRange := fun _ => show (started [0x61#8]).upc.toNat ≤ 136 by decide
  messageFits := by
    intro _
    show 1 ≤ Config.maxMsgBytes
    unfold Config.maxMsgBytes; omega
  padded := by intro _ h; simp [started, acceptDigest] at h
  blockInside := by intro _ h; simp [started, acceptDigest] at h

theorem witness_DiagnosticsNeverChangeTheResult :
    Inv { started [0x61#8] with sdiag := false, turns := [], diagStream := [] } ∧
    { started [0x61#8] with sdiag := false, turns := [], diagStream := [] }.sameButDiagnostics
      { started [0x61#8] with sdiag := true, turns := [], diagStream := [.padded []] } ∧
    ∃ t, step { started [0x61#8] with sdiag := false, turns := [], diagStream := [] } = .next t :=
  ⟨inv_started _ _ _, rfl, _, rfl⟩

theorem witness_DigestStartsARun :
    (State.reset.busy = false ∧ State.reset.msgLen.toNat ≤ Config.maxMsgBytes) ∧ (started abc).busy = true ∧
    ({ State.reset with msgLen := 0xFFFFFFFF#32 }.busy = false ∧
      Config.maxMsgBytes < { State.reset with msgLen := 0xFFFFFFFF#32 }.msgLen.toNat) := by
  have h := Config.maxMsgBytesPred.isLt
  refine ⟨⟨rfl, Nat.zero_le _⟩, rfl, rfl, ?_⟩
  show Config.maxMsgBytesPred.val + 1 < 4294967295
  omega

theorem witness_SetmodeSetsTheMode :
    ((0#8).toNat ≤ 3 ∧ (3#8).toNat ≤ 3) ∧ 4 ≤ (4#8).toNat ∧ 4 ≤ (255#8).toNat := by decide

theorem witness_LoopblkLoopsOverTheBlocks :
    (136#8).toNat ≤ 136 ∧ (3#8).toNat ≤ 136 ∧ abcBlock.bp.toNat < abcBlock.nblk.toNat := by decide

theorem witness_CommandDispatch :
    2 ^ 16 ≤ (0x00010100#32).toNat ∧ (0x0101#32).toNat < 2 ^ 16 ∧
    decodeCommand ((0x0101#32).setWidth 16) = .error .illegalOperand ∧
    (decodeCommand ((0x1000#32).setWidth 16) = .ok .pad ∧ Instr.pad.issuer = .sequencer) ∧
    (decodeCommand ((0x0203#32).setWidth 16) = .ok (.setmode 3#8) ∧ (Instr.setmode 3#8).issuer = .hostCommand) :=
  ⟨by decide, by decide, rfl, ⟨rfl, rfl⟩, ⟨rfl, rfl⟩⟩

/-- The last byte of the MSG window. -/
def lastMsgOffset : BitVec 32 := BitVec.ofNat 32 (0x10000 + Config.maxMsgBytesPred.val)

theorem firstMsg_inWindow : inMsgWindow 0x10000#32 := by
  refine ⟨by decide, ?_⟩
  show 0x10000 < 0x10000 + Config.maxMsgBytes
  unfold Config.maxMsgBytes; omega

theorem lastMsg_inWindow : inMsgWindow lastMsgOffset := by
  have h := Config.maxMsgBytesPred.isLt
  simp only [inMsgWindow, lastMsgOffset, Config.maxMsgBytes, BitVec.toNat_ofNat]
  omega

theorem witness_misalignedRegister : misalignedRegister 0x0002#32 ∧ misalignedRegister 0x0013#32 ∧
    misalignedRegister 0x0021#32 ∧ misalignedRegister 0x003F#32 := by
  simp [misalignedRegister]

theorem witness_inOutWindow : inOutWindow 0x0100#32 ∧ inOutWindow 0x01FF#32 := by simp [inOutWindow]

theorem witness_Rd32SpecifiedResults :
    State.reset.busy = false ∧ { State.reset with done := true }.busy = false ∧
    { State.reset with done := true }.done = true ∧ misalignedRegister 0x003F#32 ∧ inOutWindow 0x01FF#32 ∧
    inMsgWindow 0x10000#32 ∧ inMsgWindow lastMsgOffset :=
  ⟨rfl, rfl, rfl, witness_misalignedRegister.2.2.2, witness_inOutWindow.2, firstMsg_inWindow, lastMsg_inWindow⟩

theorem witness_UnspecifiedReadsHaveNoSideEffect :
    (started abc).busy = true ∧ State.reset.done = false ∧
    (inOutWindow 0x0100#32 ∧ (started abc).busy = true) ∧
    (inOutWindow 0x0140#32 ∧ { State.reset with outLen := 64#9 }.outLen.toNat ≤ (0x0140#32).toNat - 0x100) := by
  refine ⟨rfl, rfl, ⟨witness_inOutWindow.1, rfl⟩, by simp [inOutWindow], by decide⟩

theorem witness_Wr32Table :
    State.reset.busy = false ∧ (started abc).busy = true ∧ misalignedRegister 0x0002#32 ∧ inOutWindow 0x0100#32 ∧
    inMsgWindow 0x10000#32 :=
  ⟨rfl, rfl, witness_misalignedRegister.1, witness_inOutWindow.1, firstMsg_inWindow⟩

/-- An idle state that shows a text of one byte. -/
def showing : State := { State.reset with out := [(0, 0x42#8)], outLen := 1#9 }

theorem inv_showing : Inv showing where
  msgCanonical := by decide
  outCanonical := by decide
  msgInWindow := by intro c hc; simp [showing, State.reset] at hc
  outInWindow := by decide
  outLenBound := by decide
  textWritten := by
    intro k hk
    have : k = 0 := by have : k < 1 := hk; omega
    subst this; exact ⟨0x42#8, rfl⟩
  plenIsLength := by decide
  plenMultiple := by decide
  nblkIsBlocks := by decide
  paddedFits := Nat.zero_le _
  notBusyAndDone := by decide
  bpInRange := by decide
  upcInRange := by decide
  messageFits := fun h => absurd h (by decide)
  padded := by decide
  blockInside := by decide

theorem witness_Rd8SpecifiedResults :
    (inMsgWindow 0x10000#32 ∧ (holding abc).M.read ((0x10000#32).toNat - 0x10000) = some 0x61#8) ∧
    (inMsgWindow 0x10000#32 ∧ State.reset.M.read ((0x10000#32).toNat - 0x10000) = none) ∧
    (Inv showing ∧ inOutWindow 0x0100#32 ∧ showing.busy = false ∧
      (0x0100#32).toNat - 0x100 < showing.outLen.toNat ∧
      showing.out.read ((0x0100#32).toNat - 0x100) = some 0x42#8) ∧
    registerOffset 0x0000#32 ∧ registerOffset 0x0013#32 ∧ registerOffset 0x0020#32 ∧ registerOffset 0x003F#32 :=
  ⟨⟨firstMsg_inWindow, by decide⟩, ⟨firstMsg_inWindow, by decide⟩,
    ⟨inv_showing, witness_inOutWindow.1, rfl, by decide, by decide⟩,
    by simp [registerOffset], by simp [registerOffset], by simp [registerOffset], by simp [registerOffset]⟩

theorem witness_Wr8StoresTheByte :
    (inMsgWindow lastMsgOffset ∧ State.reset.busy = false) ∧ (inMsgWindow 0x10000#32 ∧ (started abc).busy = true) ∧
    inOutWindow 0x01FF#32 ∧ registerOffset 0x0010#32 ∧ reservedOffset 0x0014#32 ∧ reservedOffset 0xFFFF#32 :=
  ⟨⟨lastMsg_inWindow, rfl⟩, ⟨firstMsg_inWindow, rfl⟩, witness_inOutWindow.2, by simp [registerOffset],
    by simp [reservedOffset], by simp [reservedOffset]⟩

/-- The range above the MSG window is empty when MAX_MSG_BYTES is 2^32 − 0x10000; its first offset is in it otherwise. -/
theorem witness_ReservedOffsets :
    reservedOffset 0x0014#32 ∧ reservedOffset 0x001F#32 ∧ reservedOffset 0x0040#32 ∧ reservedOffset 0x00FF#32 ∧
    reservedOffset 0x0200#32 ∧ reservedOffset 0xFFFF#32 ∧
    (Config.maxMsgBytes < 4294901760 → reservedOffset (BitVec.ofNat 32 (0x10000 + Config.maxMsgBytes))) := by
  refine ⟨by simp [reservedOffset], by simp [reservedOffset], by simp [reservedOffset], by simp [reservedOffset],
    by simp [reservedOffset], by simp [reservedOffset], fun h => Or.inr (Or.inr (Or.inr ?_))⟩
  simp only [BitVec.toNat_ofNat]
  omega

theorem witness_MemoryReadAfterWrite :
    Memory.wf [(1, 0x11#8), (3, 0x33#8)] = true ∧ (2 ≠ 1 ∧ 0 ≠ 1) := by decide

theorem witness_CanonicalMemoriesAreEqual :
    Memory.wf (Memory.write [(1, 0x11#8)] 0 0x22#8) = true ∧ Memory.wf [(0, 0x22#8), (1, 0x11#8)] = true ∧
    ∀ k : Nat, (Memory.write [(1, 0x11#8)] 0 0x22#8).read k = Memory.read [(0, 0x22#8), (1, 0x11#8)] k :=
  ⟨by decide, by decide, fun _ => rfl⟩

theorem witness_EveryStepKeepsTheInvariant :
    Inv { started [0x61#8] with sdiag := false, turns := [], diagStream := [] } ∧
    ∃ t, step { started [0x61#8] with sdiag := false, turns := [], diagStream := [] } = .next t :=
  ⟨inv_started _ _ _, _, rfl⟩

theorem witness_EveryStepCompletes :
    Inv { started [0x61#8] with sdiag := false, turns := [], diagStream := [] } ∧
    { started [0x61#8] with sdiag := false, turns := [], diagStream := [] }.nextTurn.legal ∧
    { started [0x61#8] with sdiag := false, turns := [.reset], diagStream := [] }.nextTurn.legal ∧
    { started [0x61#8] with sdiag := false, turns := [cmdWrite 0x0300#32], diagStream := [] }.nextTurn.legal :=
  ⟨inv_started _ _ _, trivial, trivial, _, rfl⟩

/-- The host writes byte 0 of the message. -/
def byteWrite : Turn := .host ⟨.write, .w8, 0x10000#32, some 0x61#32⟩

theorem step_byteWrite : step { State.reset with turns := [byteWrite] } =
    .next { State.reset with M := [(0, 0x61#8)] } := by
  have h : regionOf 0x10000#32 = .msgByte 0 :=
    regionOf_msgByte firstMsg_inWindow.1 firstMsg_inWindow.2
  show execWr8 0x10000#32 0x61#8 State.reset = _
  simp only [execWr8, h]
  rfl

theorem witness_TheMessageIsOwnedByTheCore :
    (∃ t, step (started abc) = .next t ∧ (started abc).nextTurn ≠ .reset ∧ (started abc).busy = true) ∧
    ∃ t, step { State.reset with turns := [byteWrite] } = .next t ∧
      { State.reset with turns := [byteWrite] }.nextTurn ≠ .reset ∧
      t.M ≠ { State.reset with turns := [byteWrite] }.M :=
  ⟨⟨_, rfl, by decide, rfl⟩, _, step_byteWrite, by decide, by decide⟩

theorem witness_ConfigurationChangesOnlyByCommand :
    (∃ t, step { State.reset with turns := [cmdWrite 0x0203#32] } = .next t ∧
      { State.reset with turns := [cmdWrite 0x0203#32] }.nextTurn ≠ .reset ∧
      t.mode ≠ { State.reset with turns := [cmdWrite 0x0203#32] }.mode) ∧
    ∃ t, step { State.reset with turns := [cmdWrite 0x0300#32] } = .next t ∧
      { State.reset with turns := [cmdWrite 0x0300#32] }.nextTurn ≠ .reset ∧
      t.diag ≠ { State.reset with turns := [cmdWrite 0x0300#32] }.diag :=
  ⟨⟨_, rfl, by decide, by decide⟩, _, rfl, by decide, by decide⟩

theorem step_digest : step { State.reset with turns := [cmdWrite 0x0100#32] } = .next (acceptDigest State.reset) := by
  show execDigest State.reset = _
  simp [execDigest, State.reset]

theorem witness_SnapshotOnlyAtAcceptance :
    ∃ t, step { State.reset with turns := [cmdWrite 0x0100#32] } = .next t ∧
      { State.reset with turns := [cmdWrite 0x0100#32] }.nextTurn ≠ .reset ∧
      t.smode ≠ { State.reset with turns := [cmdWrite 0x0100#32] }.smode :=
  ⟨_, step_digest, by decide, by decide⟩

/-- CMD_ERR is set and the host's next turn clears it. -/
def clearing : State := { State.reset with cmdErr := true, turns := [.host ⟨.write, .w32, 0x0004#32, some 4#32⟩] }

theorem witness_CmdErrIsSticky : ∃ t, step clearing = .next t ∧ clearing.cmdErr = true ∧ t.cmdErr = false :=
  ⟨_, rfl, rfl, rfl⟩

theorem witness_DiagStreamOnlyGrows :
    ∃ t, step { abcBlock with sdiag := true, upc := 67#8 } = .next t ∧
      { abcBlock with sdiag := true, upc := 67#8 }.nextTurn ≠ .reset := ⟨_, rfl, by decide⟩

theorem witness_BusyFromDigestToEnd :
    (∃ t, step { abcBlock with upc := 136#8 } = .next t ∧ { abcBlock with upc := 136#8 }.nextTurn ≠ .reset ∧
      { abcBlock with upc := 136#8 }.busy = true ∧ t.busy = false) ∧
    ∃ t, step { State.reset with turns := [cmdWrite 0x0100#32] } = .next t ∧
      { State.reset with turns := [cmdWrite 0x0100#32] }.nextTurn ≠ .reset ∧
      { State.reset with turns := [cmdWrite 0x0100#32] }.busy = false ∧ t.busy = true :=
  ⟨⟨_, rfl, by decide, rfl, rfl⟩, _, step_digest, by decide, rfl, rfl⟩

theorem witness_ResultsAreHeldWhileIdle :
    ∃ t, step { State.reset with turns := [cmdWrite 0x0203#32] } = .next t ∧
      { State.reset with turns := [cmdWrite 0x0203#32] }.nextTurn ≠ .reset ∧
      { State.reset with turns := [cmdWrite 0x0203#32] }.busy = false := ⟨_, rfl, by decide, rfl⟩

theorem witness_HostStepsDoNotDisturbTheRun :
    ∃ t x, step { started abc with turns := [cmdWrite 0x0100#32] } = .next t ∧
      { started abc with turns := [cmdWrite 0x0100#32] }.busy = true ∧
      { started abc with turns := [cmdWrite 0x0100#32] }.nextTurn = .host x := ⟨_, _, rfl, rfl, rfl⟩

theorem witness_RunComputesTheDigest :
    (started abc).busy = true ∧ (started abc).upc = 0#8 ∧ (started abc).turns = [] ∧ (started abc).holdsMessage abc ∧
    1 = blockCount abc.length := ⟨rfl, rfl, rfl, started_abc, by decide⟩

/-- A host command, then 136 core turns. -/
def interleaving : List Turn := cmdWrite 0x0203#32 :: List.replicate 136 .core

theorem witness_RunUnderAnyInterleaving :
    { started abc with turns := interleaving ++ [Turn.core] }.busy = true ∧
    { started abc with turns := interleaving ++ [Turn.core] }.upc = 0#8 ∧
    { started abc with turns := interleaving ++ [Turn.core] }.holdsMessage abc ∧
    (∀ x ∈ interleaving, x.legal ∧ x ≠ .reset) ∧ interleaving.count .core = 132 * blockCount abc.length + 4 ∧
    ∃ rest, { started abc with turns := interleaving ++ [Turn.core] }.turns = interleaving ++ Turn.core :: rest := by
  refine ⟨rfl, rfl, started_abc, ?_, by simp [interleaving, cmdWrite, blockCount, abc], _, rfl⟩
  intro x hx
  rcases List.mem_cons.mp hx with rfl | hx
  · exact ⟨⟨_, rfl⟩, by decide⟩
  · rw [List.eq_of_mem_replicate hx]; exact ⟨trivial, by decide⟩

/-- A run with the host silent: `n` steps are `n` moves of the core. -/
theorem silent_coreMoves {s : State} (h : s.turns = []) (n : Nat) : s.coreMoves n n := by
  have e : s.turnsTaken n = List.replicate n .core := by simp [State.turnsTaken, h]
  refine ⟨fun x hx => ?_, by rw [e]; simp⟩
  rw [e] at hx
  rw [List.eq_of_mem_replicate hx]; exact ⟨trivial, by decide⟩

/-- A run during which the host sets the mode, then is silent: one step more than the core makes. -/
theorem interleaved_coreMoves (n : Nat) : { started abc with turns := [cmdWrite 0x0203#32] }.coreMoves (n + 1) n := by
  have e : { started abc with turns := [cmdWrite 0x0203#32] }.turnsTaken (n + 1) =
      cmdWrite 0x0203#32 :: List.replicate n .core := by simp [State.turnsTaken]
  refine ⟨fun x hx => ?_, by rw [e]; simp [cmdWrite]⟩
  rw [e] at hx
  rcases List.mem_cons.mp hx with rfl | hx
  · exact ⟨⟨_, rfl⟩, by decide⟩
  · rw [List.eq_of_mem_replicate hx]; exact ⟨trivial, by decide⟩

theorem witness_RunTakesExactlyItsSteps :
    ((started abc).busy = true ∧ (started abc).upc = 0#8 ∧ (started abc).holdsMessage abc) ∧
    ((started abc).coreMoves 0 0 ∧ 0 < 132 * blockCount abc.length + 5) ∧
    ((started abc).coreMoves 136 136 ∧ 136 < 132 * blockCount abc.length + 5) ∧
    { started abc with turns := [cmdWrite 0x0203#32] }.coreMoves 137 136 :=
  ⟨⟨rfl, rfl, started_abc⟩, ⟨silent_coreMoves rfl 0, by decide⟩, ⟨silent_coreMoves rfl 136, by decide⟩,
    interleaved_coreMoves 136⟩

/-- Another state with the same message and mode, and a host that sets the mode during the run. -/
def otherRun : State :=
  { started abc with sdiag := true, cmdErr := true, W := allOnes.W, turns := [cmdWrite 0x0203#32] }

theorem witness_RunsAreDeterministic :
    ((started abc).busy = true ∧ (started abc).upc = 0#8 ∧ (started abc).holdsMessage abc) ∧
    (otherRun.busy = true ∧ otherRun.upc = 0#8 ∧ otherRun.holdsMessage abc) ∧
    (started abc).smode = otherRun.smode ∧ 137 = 132 * blockCount abc.length + 5 ∧
    ((started abc).coreMoves 137 137 ∧ ((started abc).turnsTaken 137).getLast? = some .core) ∧
    (otherRun.coreMoves 138 137 ∧ (otherRun.turnsTaken 138).getLast? = some .core) :=
  ⟨⟨rfl, rfl, started_abc⟩, ⟨rfl, rfl, started_abc⟩, rfl, by decide, ⟨silent_coreMoves rfl 137, rfl⟩,
    interleaved_coreMoves 137, rfl⟩

end Sys2Proof.Tests
end

section
/-! PROOFS. The bits of the core's word functions (00_scope.md R9, R11), and what R7 says of CHAR_PLACEHOLDER
(43_output.md R194). -/

namespace Sys2Proof.Machine

/-! ### The word functions, bit by bit -/

variable {x y z : Word} {j : Nat}

/-- Bits below `32 - n` come from the right shift; the `n` bits above them come round by the left shift. -/
theorem rotr_getLsbD {n : Nat} (hn : n < 32) (hj : j < 32) :
    (rotr x n).getLsbD j = x.getLsbD ((j + n) % 32) := by
  simp only [rotr, BitVec.getLsbD_or, BitVec.getLsbD_ushiftRight, BitVec.getLsbD_shiftLeft, hj]
  rcases Nat.lt_or_ge (j + n) 32 with hlow | hround
  · have hleft : j < 32 - n := by omega
    simp [hleft, Nat.mod_eq_of_lt hlow, Nat.add_comm]
  · have hleft : ¬ j < 32 - n := by omega
    have hright : x.getLsbD (n + j) = false := BitVec.getLsbD_of_ge x _ (by omega)
    have hbit : (j + n) % 32 = j - (32 - n) := by omega
    simp only [hleft, hright, hbit, decide_true, decide_false, Bool.not_false, Bool.true_and, Bool.false_or]

theorem sigma0_getLsbD (hj : j < 32) : (sigma0 x).getLsbD j =
    ((x.getLsbD ((j + 7) % 32) ^^ x.getLsbD ((j + 18) % 32)) ^^ x.getLsbD (j + 3)) := by
  simp only [sigma0, BitVec.getLsbD_xor, BitVec.getLsbD_ushiftRight,
    rotr_getLsbD, hj, Nat.reduceLT, Nat.add_comm]

theorem sigma1_getLsbD (hj : j < 32) : (sigma1 x).getLsbD j =
    ((x.getLsbD ((j + 17) % 32) ^^ x.getLsbD ((j + 19) % 32)) ^^ x.getLsbD (j + 10)) := by
  simp only [sigma1, BitVec.getLsbD_xor, BitVec.getLsbD_ushiftRight,
    rotr_getLsbD, hj, Nat.reduceLT, Nat.add_comm]

theorem bigSigma0_getLsbD (hj : j < 32) : (bigSigma0 x).getLsbD j =
    ((x.getLsbD ((j + 2) % 32) ^^ x.getLsbD ((j + 13) % 32)) ^^ x.getLsbD ((j + 22) % 32)) := by
  simp only [bigSigma0, BitVec.getLsbD_xor, rotr_getLsbD, hj, Nat.reduceLT]

theorem bigSigma1_getLsbD (hj : j < 32) : (bigSigma1 x).getLsbD j =
    ((x.getLsbD ((j + 6) % 32) ^^ x.getLsbD ((j + 11) % 32)) ^^ x.getLsbD ((j + 25) % 32)) := by
  simp only [bigSigma1, BitVec.getLsbD_xor, rotr_getLsbD, hj, Nat.reduceLT]

/-- Exactly one of the two terms of Ch is masked off at each bit of `x`. -/
theorem ch_getLsbD (hj : j < 32) :
    (ch x y z).getLsbD j = if x.getLsbD j then y.getLsbD j else z.getLsbD j := by
  simp only [ch, BitVec.getLsbD_xor, BitVec.getLsbD_and, BitVec.getLsbD_not, hj]
  cases x.getLsbD j <;> simp

/-- On three bits the exclusive or of the pairwise products is the majority. -/
theorem maj_getLsbD : (maj x y z).getLsbD j =
    ((x.getLsbD j && y.getLsbD j) || (x.getLsbD j && z.getLsbD j) || (y.getLsbD j && z.getLsbD j)) := by
  have majority : ∀ a b c : Bool, ((a && b) ^^ (a && c) ^^ (b && c)) = (a && b || a && c || b && c) := by decide
  simp only [maj, BitVec.getLsbD_xor, BitVec.getLsbD_and, majority]

/-! ### The placeholder text -/

theorem charPlaceholder_ne_nil : Config.charPlaceholder ≠ [] := by
  apply List.ne_nil_of_length_pos
  rw [charPlaceholder_length]; omega

theorem charPlaceholder_length_le : Config.charPlaceholder.length ≤ 256 := by
  rw [charPlaceholder_length]; omega

/-- Every byte of CHAR_PLACEHOLDER is a 7-bit code, widened. -/
theorem charPlaceholder_ascii : ∀ c ∈ Config.charPlaceholder, c.toNat < 128 := by
  intro c hc
  obtain ⟨k, -, rfl⟩ := List.mem_map.mp hc
  rw [BitVec.toNat_setWidth_of_le (by decide)]
  exact (Config.placeholderChar k).isLt

end Sys2Proof.Machine

namespace Sys2Proof.Proofs

open Sys2Proof.Machine

/-- Settles O17: R9's two shifts bring each bit of the word from one place only. -/
theorem rotrMovesEveryBit : Obligations.RotrMovesEveryBit :=
  fun _ _ _ hn _ hj => rotr_getLsbD hn hj

/-- Settles O18: each function of R11 by its own bit lemma. -/
theorem coreFunctionsBitByBit : Obligations.CoreFunctionsBitByBit :=
  fun _ _ _ _ hj => ⟨sigma0_getLsbD hj, sigma1_getLsbD hj, bigSigma1_getLsbD hj, bigSigma0_getLsbD hj,
    ch_getLsbD hj, maj_getLsbD⟩

/-- Settles O28: R7's constraints hold of CHAR_PLACEHOLDER by the form of the parameter (log 9). -/
theorem characterTextIsThePlaceholder : Obligations.CharacterTextIsThePlaceholder :=
  fun _ => ⟨rfl, charPlaceholder_ne_nil, charPlaceholder_length_le, charPlaceholder_ascii⟩

end Sys2Proof.Proofs
end

section
/-! PROOFS. Byte buffers: what a canonical buffer reads is what it lists. -/

namespace Sys2Proof.Machine

/-- In a canonical buffer the byte read at an index is the one listed there. -/
theorem Memory.read_eq_some_iff {m : Memory} (h : m.Pairwise (·.1 < ·.1)) {k : Nat} {v : Byte} :
    m.read k = some v ↔ (k, v) ∈ m := by
  induction m with
  | nil => simp [Memory.read, Memory.unlisted]
  | cons c rest ih =>
    obtain ⟨a, x⟩ := c
    obtain ⟨above, hrest⟩ := List.pairwise_cons.1 h
    simp only [Memory.read, List.mem_cons, Prod.mk.injEq]
    by_cases hk : a = k
    · subst hk
      have absent : (a, v) ∉ rest := fun hv => lt_irrefl a (above _ hv)
      simp [absent, eq_comm]
    · simp [hk, Ne.symm hk, ih hrest]

end Sys2Proof.Machine

namespace Sys2Proof.Proofs

open Sys2Proof.Machine

/-- Settles O44. -/
theorem memoryReadAfterWrite : Obligations.MemoryReadAfterWrite := fun m k v h =>
  ⟨Memory.write_wf k v h, by rw [Memory.read_write, if_pos rfl], fun j hj => by rw [Memory.read_write, if_neg hj]⟩

/-- Settles O45: what a canonical buffer reads says which cells it lists, and cells in strictly rising order are
determined by which they are. -/
theorem canonicalMemoriesAreEqual : Obligations.CanonicalMemoriesAreEqual := by
  intro m n hm hn alike
  rw [Memory.wf_iff_pairwise] at hm hn
  have : Std.Irrefl fun c d : Host.Cell => c.1 < d.1 := ⟨fun c => lt_irrefl c.1⟩
  have : Std.Antisymm fun c d : Host.Cell => c.1 < d.1 := ⟨fun c d h h' => absurd h (lt_asymm h')⟩
  refine List.Pairwise.eq_of_mem_iff hm hn fun c => ?_
  rw [← Memory.read_eq_some_iff hm, ← Memory.read_eq_some_iff hn, alike]

end Sys2Proof.Proofs
end

section
/-! PROOFS. K and IV come from the primes (10_state.md R22, R24): trial division for the list of primes, and integer
bounds for the roots. -/

namespace Sys2Proof.Machine

open Sys2Proof.Claims

/-- The primes below 19, by which every composite number below 19² has a factor. -/
def trialDivisors : List Nat := [2, 3, 5, 7, 11, 13, 17]

/-- Trial division below 19². -/
theorem prime_iff_trialDivisors {n : Nat} (hn : n < 19 ^ 2) :
    n.Prime ↔ 2 ≤ n ∧ ∀ p ∈ trialDivisors, p ∣ n → p = n := by
  constructor
  · intro prime
    refine ⟨prime.two_le, fun p hp hdvd => (prime.eq_one_or_self_of_dvd p hdvd).resolve_left ?_⟩
    rintro rfl
    exact absurd hp (by decide)
  · rintro ⟨two_le, noFactor⟩
    by_contra composite
    have sq : n.minFac ^ 2 ≤ n := Nat.minFac_sq_le_self (by omega) composite
    have small : n.minFac < 19 := lt_of_pow_lt_pow_left₀ 2 (by omega) (sq.trans_lt hn)
    have factor : n.minFac.Prime := Nat.minFac_prime (by omega)
    have listed : ∀ q < 19, q.Prime → q ∈ trialDivisors := by decide
    have whole := noFactor _ (listed _ small factor) (Nat.minFac_dvd n)
    exact composite (whole ▸ factor)

/-- The numbers below 312 = 13 · 24 that pass trial division are those listed, row by row of 24. -/
theorem trialDivision_rows : ∀ a < 13, ∀ b < 24,
    (2 ≤ 24 * a + b ∧ ∀ p ∈ trialDivisors, p ∣ 24 * a + b → p = 24 * a + b) ↔ 24 * a + b ∈ firstPrimes := by
  decide

theorem prime_iff_mem_firstPrimes {n : Nat} (hn : n ≤ 311) : n.Prime ↔ n ∈ firstPrimes := by
  have row := trialDivision_rows (n / 24) (by omega) (n % 24) (by omega)
  rw [Nat.div_add_mod] at row
  exact (prime_iff_trialDivisors (by omega)).trans row

/-- Every K[i], below the whole part of a cube root, is that root at 32 fractional bits. -/
theorem roundConstants_roots : ∀ i : Fin 64, ∃ c < 7,
    (c * 2 ^ 32 + roundConstants[i].toNat) ^ 3 ≤ firstPrimes[i] * 2 ^ 96 ∧
    firstPrimes[i] * 2 ^ 96 < (c * 2 ^ 32 + roundConstants[i].toNat + 1) ^ 3 := by
  decide

/-- Every IV[j], below the whole part of a square root, is that root at 32 fractional bits. -/
theorem initialHash_roots : ∀ j : Fin 8, ∃ c < 5,
    (c * 2 ^ 32 + initialHash[j].toNat) ^ 2 ≤ firstPrimes[j] * 2 ^ 64 ∧
    firstPrimes[j] * 2 ^ 64 < (c * 2 ^ 32 + initialHash[j].toNat + 1) ^ 2 := by
  decide

/-- The first 32 fractional bits are what is left without the whole part. -/
theorem fraction_eq_mod (c : Nat) (w : Word) : w.toNat = (c * 2 ^ 32 + w.toNat) % 2 ^ 32 := by
  rw [Nat.mul_add_mod_self_right, Nat.mod_eq_of_lt w.isLt]

end Sys2Proof.Machine

namespace Sys2Proof.Proofs

open Sys2Proof.Machine Sys2Proof.Claims

/-- Settles O19: the list by trial division, each constant by the whole part of its root. -/
theorem constantsComeFromThePrimes : Obligations.ConstantsComeFromThePrimes := by
  refine ⟨fun n hn => prime_iff_mem_firstPrimes hn, by decide, fun i p hp => ?_, fun j p hp => ?_⟩
  · obtain ⟨-, rfl⟩ := List.getElem?_eq_some_iff.1 hp
    obtain ⟨c, -, lower, upper⟩ := roundConstants_roots i
    exact ⟨_, lower, upper, fraction_eq_mod c _⟩
  · obtain ⟨-, rfl⟩ := List.getElem?_eq_some_iff.1 hp
    obtain ⟨c, -, lower, upper⟩ := initialHash_roots j
    exact ⟨_, lower, upper, fraction_eq_mod c _⟩

end Sys2Proof.Proofs
end

section
/-! PROOFS. The reads whose value the spec leaves unspecified (10_state.md R26, R40, R44): each answers a fresh draw and
leaves the rest. -/

namespace Sys2Proof.Machine

variable {s : State}

theorem execRd32_outLen_busy (busy : s.busy = true) : execRd32 0x000C#32 s = .next (returnFreeWord s) := by
  simp only [execRd32, show regionOf 0x000C#32 = .outLen from rfl, busy, if_true]

theorem execRd32_hash_unspecified {off : BitVec 32} {j : Fin 8} (region : regionOf off = .hash j)
    (h : s.busy = true ∨ s.done = false) : execRd32 off s = .next (returnFreeWord s) := by
  have unspecified : (s.busy || !s.done) = true := by simpa using h
  simp only [execRd32, region, unspecified, if_true]

theorem execRd8_outByte_unspecified {off : BitVec 32} {k : Nat} (region : regionOf off = .outByte k)
    (h : s.busy = true ∨ s.outLen.toNat ≤ k) : execRd8 off s = .next (returnFreeByte s) := by
  have unspecified : (s.busy || decide (s.outLen.toNat ≤ k)) = true := by simpa using h
  simp only [execRd8, region, unspecified, if_true]

end Sys2Proof.Machine

namespace Sys2Proof.Proofs

open Sys2Proof.Machine Sys2Proof.Claims

/-- Settles O39: each of the three reads is a fresh draw, which leaves all but the record and the counter. -/
theorem unspecifiedReadsHaveNoSideEffect : Obligations.UnspecifiedReadsHaveNoSideEffect := by
  refine fun s => ⟨fun busy => ?_, fun h j => ?_, fun off inside h => ?_⟩
  · exact ⟨_, _, execRd32_outLen_busy busy, rfl⟩
  · have offset : (hashOffset j.val).toNat = 0x20 + 4 * j.val := Nat.mod_eq_of_lt (by omega)
    exact ⟨_, _, execRd32_hash_unspecified (regionOf_hash j offset) h, rfl⟩
  · exact ⟨_, _, execRd8_outByte_unspecified (regionOf_outByte inside.1 inside.2) h, rfl⟩

end Sys2Proof.Proofs
end

section
/-! PROOFS. What stands in the micro-program (44_control.md R229): the operation at every address, and that each of
them completes. -/

namespace Sys2Proof.Machine

/-! ### A command word from its two bytes -/

/-- A row of 30_encoding.md R93 with an operand, as a number and as its two bytes. -/
theorem ofNat_row {base n : Nat} {u : BitVec 8} (hb : base = u.toNat * 256) (hn : n < 256) :
    BitVec.ofNat 16 (base + n) = u ++ BitVec.ofNat 8 n := by
  apply BitVec.eq_of_toNat_eq
  have hu := u.isLt
  rw [BitVec.toNat_append, ← Nat.shiftLeft_add_eq_or_of_lt (BitVec.isLt _)]
  simp only [hb, BitVec.toNat_ofNat, Nat.shiftLeft_eq, Nat.mod_eq_of_lt hn]
  exact Nat.mod_eq_of_lt (by omega)

theorem decodeCommand_loadw {t : BitVec 8} (h : legalLoadIndex t) : decodeCommand (0x20#8 ++ t) = .ok (.loadw t) := by
  simp [decodeCommand, withOperand_eq_ok, Instr.wf, h]

theorem decodeCommand_expw {t : BitVec 8} (h : legalExpandIndex t) : decodeCommand (0x21#8 ++ t) = .ok (.expw t) := by
  simp [decodeCommand, withOperand_eq_ok, Instr.wf, h]

theorem decodeCommand_round {t : BitVec 8} (h : legalRoundIndex t) : decodeCommand (0x32#8 ++ t) = .ok (.round t) := by
  simp [decodeCommand, withOperand_eq_ok, Instr.wf, h]

/-! ### The operation at each address -/

/-- `MicroOp a i`: the micro-program's operation at address `a` is `i` (44_control.md R229). -/
inductive MicroOp : BitVec 8 → Instr → Prop
  | pad : MicroOp 0#8 .pad
  | diagp : MicroOp 1#8 .diagp
  | ldiv : MicroOp 2#8 .ldiv
  | loadw {a t : BitVec 8} (legal : legalLoadIndex t) (addr : a.toNat = 3 + t.toNat) : MicroOp a (.loadw t)
  | expw {a t : BitVec 8} (legal : legalExpandIndex t) (addr : a.toNat = 3 + t.toNat) : MicroOp a (.expw t)
  | diagw : MicroOp 67#8 .diagw
  | initwv : MicroOp 68#8 .initwv
  | round {a t : BitVec 8} (legal : legalRoundIndex t) (addr : a.toNat = 69 + t.toNat) : MicroOp a (.round t)
  | ffwd : MicroOp 133#8 .ffwd
  | loopblk : MicroOp 134#8 (.loopblk 3#8)
  | fmt : MicroOp 135#8 .fmt
  | endRun : MicroOp 136#8 .endRun

theorem uprogWord_loadw {a : BitVec 8} (h3 : 3 ≤ a.toNat) (h18 : a.toNat ≤ 18) :
    uprogWord a = some (0x20#8 ++ BitVec.ofNat 8 (a.toNat - 3)) := by
  simp only [uprogWord]
  rw [if_neg (by omega), if_neg (by omega), if_neg (by omega), if_pos h18,
    ofNat_row (show 0x2000 = (0x20#8).toNat * 256 from rfl) (by omega)]

theorem uprogWord_expw {a : BitVec 8} (h19 : 19 ≤ a.toNat) (h66 : a.toNat ≤ 66) :
    uprogWord a = some (0x21#8 ++ BitVec.ofNat 8 (a.toNat - 3)) := by
  simp only [uprogWord]
  rw [if_neg (by omega), if_neg (by omega), if_neg (by omega), if_neg (by omega), if_pos h66,
    ofNat_row (show 0x2100 = (0x21#8).toNat * 256 from rfl) (by omega)]

theorem uprogWord_round {a : BitVec 8} (h69 : 69 ≤ a.toNat) (h132 : a.toNat ≤ 132) :
    uprogWord a = some (0x32#8 ++ BitVec.ofNat 8 (a.toNat - 69)) := by
  simp only [uprogWord]
  rw [if_neg (by omega), if_neg (by omega), if_neg (by omega), if_neg (by omega), if_neg (by omega),
    if_neg (by omega), if_neg (by omega), if_pos h132,
    ofNat_row (show 0x3200 = (0x32#8).toNat * 256 from rfl) (by omega)]

/-- Every address up to 136 holds a word that decodes to the operation of R229. -/
theorem exists_microOp {a : BitVec 8} (h : a.toNat ≤ 136) :
    ∃ w i, uprogWord a = some w ∧ decodeCommand w = .ok i ∧ MicroOp a i := by
  have literal : ∀ {n}, a.toNat = n → a = BitVec.ofNat 8 n := fun hn => by
    rw [← hn, BitVec.ofNat_toNat, BitVec.setWidth_eq]
  have operand : ∀ {n}, n < 256 → (BitVec.ofNat 8 n).toNat = n := fun hn => Nat.mod_eq_of_lt hn
  have rows : a.toNat = 0 ∨ a.toNat = 1 ∨ a.toNat = 2 ∨ (3 ≤ a.toNat ∧ a.toNat ≤ 18) ∨
      (19 ≤ a.toNat ∧ a.toNat ≤ 66) ∨ a.toNat = 67 ∨ a.toNat = 68 ∨ (69 ≤ a.toNat ∧ a.toNat ≤ 132) ∨
      a.toNat = 133 ∨ a.toNat = 134 ∨ a.toNat = 135 ∨ a.toNat = 136 := by omega
  rcases rows with h0 | h1 | h2 | ⟨h3, h18⟩ | ⟨h19, h66⟩ | h67 | h68 | ⟨h69, h132⟩ | h133 | h134 | h135 | h136
  · obtain rfl := literal h0; exact ⟨_, _, rfl, rfl, .pad⟩
  · obtain rfl := literal h1; exact ⟨_, _, rfl, rfl, .diagp⟩
  · obtain rfl := literal h2; exact ⟨_, _, rfl, rfl, .ldiv⟩
  · have ht := operand (n := a.toNat - 3) (by omega)
    have legal : legalLoadIndex (BitVec.ofNat 8 (a.toNat - 3)) := by omega
    exact ⟨_, _, uprogWord_loadw h3 h18, decodeCommand_loadw legal, .loadw legal (by omega)⟩
  · have ht := operand (n := a.toNat - 3) (by omega)
    have legal : legalExpandIndex (BitVec.ofNat 8 (a.toNat - 3)) := by omega
    exact ⟨_, _, uprogWord_expw h19 h66, decodeCommand_expw legal, .expw legal (by omega)⟩
  · obtain rfl := literal h67; exact ⟨_, _, rfl, rfl, .diagw⟩
  · obtain rfl := literal h68; exact ⟨_, _, rfl, rfl, .initwv⟩
  · have ht := operand (n := a.toNat - 69) (by omega)
    have legal : legalRoundIndex (BitVec.ofNat 8 (a.toNat - 69)) := by omega
    exact ⟨_, _, uprogWord_round h69 h132, decodeCommand_round legal, .round legal (by omega)⟩
  · obtain rfl := literal h133; exact ⟨_, _, rfl, rfl, .ffwd⟩
  · obtain rfl := literal h134; exact ⟨_, _, rfl, rfl, .loopblk⟩
  · obtain rfl := literal h135; exact ⟨_, _, rfl, rfl, .fmt⟩
  · obtain rfl := literal h136; exact ⟨_, _, rfl, rfl, .endRun⟩

/-- No word stands above 136. -/
theorem uprogWord_address_le {a : BitVec 8} {w : CmdWord} (h : uprogWord a = some w) : a.toNat ≤ 136 := by
  by_contra ha
  unfold uprogWord at h
  simp only at h
  rw [if_neg (by omega), if_neg (by omega), if_neg (by omega), if_neg (by omega), if_neg (by omega),
    if_neg (by omega), if_neg (by omega), if_neg (by omega), if_neg (by omega), if_neg (by omega),
    if_neg (by omega), if_neg (by omega)] at h
  cases h

/-- The operation read from the micro-program is that of R229. -/
theorem microOp_of_uprogWord {a : BitVec 8} {w : CmdWord} {i : Instr} (hw : uprogWord a = some w)
    (hi : decodeCommand w = .ok i) : MicroOp a i := by
  obtain ⟨w', i', hw', hi', hop⟩ := exists_microOp (uprogWord_address_le hw)
  obtain rfl : w' = w := Option.some.inj (hw'.symm.trans hw)
  obtain rfl : i' = i := Except.ok.inj (hi'.symm.trans hi)
  exact hop

/-- Every operation of the micro-program completes in every state (60_exceptions.md R260). -/
theorem MicroOp.completes {a : BitVec 8} {i : Instr} (h : MicroOp a i) (s : State) : ∃ t, exec i s = .next t := by
  cases h with
  | loadw legal _ => exact ⟨_, execLoadw_legal legal s⟩
  | expw legal _ => exact ⟨_, execExpw_legal legal s⟩
  | round legal _ => exact ⟨_, execRound_legal legal s⟩
  | _ => exact ⟨_, rfl⟩

end Sys2Proof.Machine
end

section
/-! PROOFS. What one step can do, said once for each agent: the effects of the core's operations, and those of the
host's transactions. -/

namespace Sys2Proof

/-! ### An instruction is met in one encoded form only -/

/-- A word from the numbers of its UNIT and FUNC (30_encoding.md R90). -/
theorem cmdWord_eq_of_fields {w : CmdWord} {u f : Nat} (hu : (unitOf w).toNat = u) (hf : (funcOf w).toNat = f) :
    w = (BitVec.ofNat 4 u ++ BitVec.ofNat 4 f : BitVec 8) ++ immOf w := by
  subst hu hf
  simpa using cmdWord_eq_fields w

/-- A command word that decodes is the encoding of what it decodes to (30_encoding.md R94). -/
theorem encode_of_decodeCommand {w : CmdWord} {i : Instr} (h : decodeCommand w = .ok i) : encode i = .command w := by
  unfold decodeCommand at h
  split at h
  case h_3 hu hf | h_6 hu hf | h_7 hu hf | h_10 hu hf | h_12 hu hf =>
    obtain ⟨-, rfl⟩ := withOperand_eq_ok.1 h
    exact congrArg Encoded.command (cmdWord_eq_of_fields hu hf).symm
  case h_17 => split at h <;> cases h
  all_goals
    rename_i hu hf
    obtain ⟨himm, rfl⟩ := withoutOperand_eq_ok.1 h
    exact congrArg Encoded.command (himm ▸ cmdWord_eq_of_fields hu hf).symm

/-- A transaction that decodes is one of the four of 30_encoding.md R91. -/
theorem decodeBus_cases {x : BusTxn} {i : Instr} (h : decodeBus x = .ok i) :
    (∃ off, x = ⟨.read, .w32, off, none⟩ ∧ i = .rd32 off) ∨ (∃ off, x = ⟨.read, .w8, off, none⟩ ∧ i = .rd8 off) ∨
    (∃ off v, x = ⟨.write, .w32, off, some v⟩ ∧ i = .wr32 off v) ∨
    (∃ off v, x = ⟨.write, .w8, off, some v⟩ ∧ i = .wr8 off (v.setWidth 8)) := by
  obtain ⟨kind, width, off, value⟩ := x
  cases kind <;> cases width <;> cases value <;> simp only [decodeBus] at h
  case read.w8.none => cases h; exact .inr (.inl ⟨off, rfl, rfl⟩)
  case read.w32.none => cases h; exact .inl ⟨off, rfl, rfl⟩
  case write.w8.some v =>
    split at h <;> cases h
    exact .inr (.inr (.inr ⟨off, v, rfl, rfl⟩))
  case write.w32.some v => cases h; exact .inr (.inr (.inl ⟨off, v, rfl, rfl⟩))
  all_goals cases h

end Sys2Proof

namespace Sys2Proof.Machine

/-! ### The core -/

/-- `t` is `s` after an operation of the datapath: of the state that the invariant and the host see, only upc moves, by
one. -/
structure DatapathStep (s t : State) : Prop where
  frame : t = { s with
    H := t.H, wv := t.wv, W := t.W, diagStream := t.diagStream, draws := t.draws, upc := s.upc + 1#8 }
  streamGrows : s.diagStream <+: t.diagStream

/-- `CoreEffect s i t`: the core's step from `s` performed `i` of the micro-program and left `t`. -/
inductive CoreEffect (s : State) : Instr → State → Prop
  | pad {t : State} (upc : s.upc = 0#8) (padded : execPad s = .next t) : CoreEffect s .pad t
  | datapath {i : Instr} {t : State} (lo : 1 ≤ s.upc.toNat) (hi : s.upc.toNat ≤ 132) (step : DatapathStep s t) :
      CoreEffect s i t
  | ffwd (upc : s.upc = 133#8) :
      CoreEffect s .ffwd (advance { s with H := feedForward s.H s.wv, bp := s.bp + 1#64 })
  | loopBack (upc : s.upc = 134#8) (more : s.bp < s.nblk) : CoreEffect s (.loopblk 3#8) { s with upc := 3#8 }
  | loopExit (upc : s.upc = 134#8) : CoreEffect s (.loopblk 3#8) (advance s)
  | fmt (upc : s.upc = 135#8) :
      CoreEffect s .fmt (advance { s with
        out := s.out.writeList 0 (textOf s.smode s.H), outLen := BitVec.ofNat 9 (textOf s.smode s.H).length })
  | endRun (upc : s.upc = 136#8) : CoreEffect s .endRun (finishRun s)

/-- DIAGP only appends to DIAGSTREAM. -/
theorem execDiagp_streamGrows {s t : State} (h : execDiagp s = .next t) : s.diagStream <+: t.diagStream := by
  unfold execDiagp at h
  cases h
  split <;> simp

/-- DIAGW only appends to DIAGSTREAM. -/
theorem execDiagw_streamGrows {s t : State} (h : execDiagw s = .next t) : s.diagStream <+: t.diagStream := by
  unfold execDiagw at h
  cases h
  split <;> simp

/-- What an operation of the micro-program does at its address. -/
theorem MicroOp.effect {s t : State} {a : BitVec 8} {i : Instr} (op : MicroOp a i) (upc : s.upc = a)
    (h : exec i s = .next t) : CoreEffect s i t := by
  have upcNat : s.upc.toNat = a.toNat := by rw [upc]
  cases op with
  | pad => exact .pad upc h
  | diagp => exact .datapath (by simp [upc]) (by simp [upc]) ⟨by rw [execDiagp_frame h], execDiagp_streamGrows h⟩
  | ldiv => cases h; exact .datapath (by simp [upc]) (by simp [upc]) ⟨rfl, List.prefix_rfl⟩
  | loadw _ addr =>
    have frame := execLoadw_frame h
    exact .datapath (by omega) (by omega) ⟨by rw [frame], by rw [frame]⟩
  | expw _ addr =>
    have frame := execExpw_frame h
    exact .datapath (by omega) (by omega) ⟨by rw [frame], by rw [frame]⟩
  | diagw => exact .datapath (by simp [upc]) (by simp [upc]) ⟨by rw [execDiagw_frame h], execDiagw_streamGrows h⟩
  | initwv => cases h; exact .datapath (by simp [upc]) (by simp [upc]) ⟨rfl, List.prefix_rfl⟩
  | round _ addr =>
    have frame := execRound_frame h
    exact .datapath (by omega) (by omega) ⟨by rw [frame], by rw [frame]⟩
  | ffwd => cases h; exact .ffwd upc
  | loopblk =>
    rw [show exec (.loopblk 3#8) s = _ from execLoopblk_legal (by decide) s] at h
    cases h
    split
    · exact .loopBack upc ‹_›
    · exact .loopExit upc
  | fmt => cases h; exact .fmt upc
  | endRun => cases h; exact .endRun upc

/-! ### The host -/

/-- The 32-bit write of `v` to CMD. -/
abbrev cmdTxn (v : Word) : BusTxn := ⟨.write, .w32, 0x0000#32, some v⟩

/-- `HostWrite s x t`: the host's transaction `x` was accepted as a write and led from `s` to `t` (44_control.md R220,
R222, R225, R226, R235, R237). -/
inductive HostWrite (s : State) : BusTxn → State → Prop
  | msgLen {x : BusTxn} (v : Word) (idle : s.busy = false) : HostWrite s x { s with msgLen := v }
  | msgByte {off v : BitVec 32} {k : Nat} (b : Byte) (idle : s.busy = false) (offset : off.toNat = 0x10000 + k)
      (inside : k < Config.maxMsgBytes) : HostWrite s ⟨.write, .w8, off, some v⟩ { s with M := s.M.write k b }
  | digest (idle : s.busy = false) (fits : s.msgLen.toNat ≤ Config.maxMsgBytes) :
      HostWrite s (cmdTxn 0x0100#32) (acceptDigest s)
  | setmode (m : BitVec 8) (legal : m.toNat ≤ 3) :
      HostWrite s (cmdTxn (BitVec.ofNat 32 (0x200 + m.toNat))) { s with mode := modeOfCode (m.extractLsb' 0 2) }
  | togglediag : HostWrite s (cmdTxn 0x0300#32) { s with diag := !s.diag }

/-- A word whose bits 31:16 are zero is its low half. -/
theorem word_eq_low {v : Word} {w : CmdWord} (high : v.extractLsb' 16 16 = 0#16) (low : v.extractLsb' 0 16 = w) :
    v = w.setWidth 32 := by
  have hh := congrArg BitVec.toNat high
  have hl := congrArg BitVec.toNat low
  simp only [BitVec.extractLsb'_toNat, Nat.shiftRight_eq_div_pow, BitVec.toNat_ofNat] at hh hl
  apply BitVec.eq_of_toNat_eq
  rw [BitVec.toNat_setWidth]
  have := v.isLt
  omega

/-- The command word that a write to CMD carries is the encoding of the command. -/
theorem word_eq_of_command {v : Word} {i : Instr} {w : CmdWord} (high : v.extractLsb' 16 16 = 0#16)
    (hi : decodeCommand (v.extractLsb' 0 16) = .ok i) (hw : encode i = .command w) : v = w.setWidth 32 :=
  word_eq_low high (Encoded.command.inj ((encode_of_decodeCommand hi).symm.trans hw))

/-- The SETMODE word of a mode code, as a number. -/
theorem setmodeWord_toNat (m : BitVec 8) : (0x02#8 ++ m : CmdWord).setWidth 32 = BitVec.ofNat 32 (0x200 + m.toNat) := by
  have row := ofNat_row (show 0x200 = (0x02#8).toNat * 256 from rfl) m.isLt
  rw [BitVec.ofNat_toNat, BitVec.setWidth_eq] at row
  have small : 0x200 + m.toNat < 2 ^ 16 := by have := m.isLt; omega
  rw [← row, BitVec.setWidth_ofNat_of_le_of_lt (by decide) small]

/-- What a word written to CMD can do: be reported, or be accepted as a command. -/
theorem issueCommand_effect {v : Word} {s t : State} (h : issueCommand v s = .next t) :
    sameButReport s t ∨ HostWrite s (cmdTxn v) t := by
  obtain ⟨t', ht', effect⟩ := issueCommand_cases v s
  obtain rfl : t' = t := Host.Outcome.next.inj (ht'.symm.trans h)
  rcases effect with same | ⟨high, i, hi, ⟨rfl, idle, fits, rfl⟩ | ⟨m, rfl, legal, rfl⟩ | ⟨rfl, rfl⟩⟩
  · exact .inl same
  · obtain rfl := word_eq_of_command high hi rfl
    exact .inr (.digest idle fits)
  · rw [(word_eq_of_command high hi rfl).trans (setmodeWord_toNat m)]
    exact .inr (.setmode m legal)
  · obtain rfl := word_eq_of_command high hi rfl
    exact .inr .togglediag

/-- What a host transaction can do: report, or be accepted as a write. -/
theorem host_effect {s t : State} {x : BusTxn} {i : Instr} (hx : decodeBus x = .ok i) (h : exec i s = .next t) :
    sameButReport s t ∨ HostWrite s x t := by
  rcases decodeBus_cases hx with ⟨off, -, rfl⟩ | ⟨off, -, rfl⟩ | ⟨off, v, rfl, rfl⟩ | ⟨off, v, rfl, rfl⟩
  · obtain ⟨t', ht', same⟩ := execRd32_report off s
    exact .inl (Host.Outcome.next.inj (ht'.symm.trans h) ▸ same)
  · obtain ⟨t', ht', same⟩ := execRd8_report off s
    exact .inl (Host.Outcome.next.inj (ht'.symm.trans h) ▸ same)
  · obtain ⟨t', ht', effect⟩ := execWr32_cases off v s
    obtain rfl : t' = t := Host.Outcome.next.inj (ht'.symm.trans h)
    rcases effect with same | ⟨-, idle, rfl⟩ | ⟨region, command⟩
    · exact .inl same
    · exact .inr (.msgLen v idle)
    · obtain rfl := regionOf_eq_cmd region
      exact issueCommand_effect command
  · obtain ⟨t', ht', effect⟩ := execWr8_cases off (v.setWidth 8) s
    obtain rfl : t' = t := Host.Outcome.next.inj (ht'.symm.trans h)
    rcases effect with same | ⟨k, region, idle, rfl⟩
    · exact .inl same
    · obtain ⟨offset, inside⟩ := regionOf_eq_msgByte region
      exact .inr (.msgByte _ idle offset inside)

/-- Every transaction of R91 completes. -/
theorem host_completes {x : BusTxn} {i : Instr} (hx : decodeBus x = .ok i) (s : State) : ∃ t, exec i s = .next t := by
  rcases decodeBus_cases hx with ⟨off, -, rfl⟩ | ⟨off, -, rfl⟩ | ⟨off, v, -, rfl⟩ | ⟨off, v, -, rfl⟩
  · exact (execRd32_report off s).imp fun _ => And.left
  · exact (execRd8_report off s).imp fun _ => And.left
  · exact (execWr32_cases off v s).imp fun _ => And.left
  · exact (execWr8_cases off _ s).imp fun _ => And.left

/-! ### The step -/

/-- What a step that answers a next state has done: `step_cases` with the agent's effect. -/
theorem step_effect {s t : State} (h : step s = .next t) :
    (s.nextTurn = .core ∧ s.busy = false ∧ t = popTurn s) ∨
    (s.nextTurn = .core ∧ s.busy = true ∧
      ∃ i, (uprogWord s.upc).map decodeCommand = some (.ok i) ∧ CoreEffect (popTurn s) i t) ∨
    (∃ x, s.nextTurn = .host x ∧ (sameButReport (popTurn s) t ∨ HostWrite (popTurn s) x t)) ∨
    (s.nextTurn = .reset ∧ t = resetInput (popTurn s)) := by
  rcases step_cases h with idle | ⟨turn, busy, w, i, hw, hi, he⟩ | ⟨x, i, turn, hx, he⟩ | reset
  · exact .inl idle
  · exact .inr (.inl ⟨turn, busy, i, by rw [hw, Option.map_some, hi], (microOp_of_uprogWord hw hi).effect rfl he⟩)
  · exact .inr (.inr (.inl ⟨x, turn, host_effect hx he⟩))
  · exact .inr (.inr (.inr reset))

end Sys2Proof.Machine
end

section
/-! PROOFS. The invariant of the machine (10_state.md R48): reset meets it, every step keeps it, and in every state of
it every legal turn completes. -/

namespace Sys2Proof.Machine

variable {s t : State}

/-! ### What the invariant does not speak of -/

/-- Taking a turn off the list keeps the invariant. -/
theorem Inv.popTurn (h : Inv s) : Inv (popTurn s) := { h with }

/-- A report to the host keeps the invariant. -/
theorem Inv.report (h : Inv s) (same : sameButReport s t) : Inv t := by
  rw [same]
  exact { h with }

/-- Reset leaves nothing written, nothing padded and nothing running. -/
theorem inv_reset : Inv State.reset where
  msgCanonical := rfl
  outCanonical := rfl
  msgInWindow := by simp [State.reset]
  outInWindow := by simp [State.reset]
  outLenBound := by decide
  textWritten := by simp [State.reset]
  plenIsLength := rfl
  plenMultiple := rfl
  nblkIsBlocks := by decide
  paddedFits := Nat.zero_le _
  notBusyAndDone := by decide
  bpInRange := Nat.le_refl _
  upcInRange := by decide
  messageFits := by simp [State.reset]
  padded := by decide
  blockInside := by decide

/-- The items that reset leaves free are none of the invariant's. -/
theorem inv_resetInput (s : State) : Inv (resetInput s) := { inv_reset with }

/-! ### The host's transactions -/

theorem Inv.hostWrite {x : BusTxn} (h : Inv s) (write : HostWrite s x t) : Inv t := by
  cases write with
  | msgLen v idle => exact { h with messageFits := fun busy => by simp [idle] at busy }
  | msgByte b idle offset inside =>
    refine { h with
      msgCanonical := Memory.write_wf _ _ h.msgCanonical
      msgInWindow := fun c hc => ?_ }
    rcases Memory.mem_write hc with rfl | hc
    · exact inside
    · exact h.msgInWindow c hc
  | digest idle fits =>
    exact { h with
      notBusyAndDone := by simp
      upcInRange := by simp
      messageFits := fun _ => fits
      padded := by simp
      blockInside := by simp }
  | setmode m legal => exact { h with }
  | togglediag => exact { h with }

/-! ### The core's operations -/

theorem advance_upc_toNat {s : State} (h : s.upc.toNat ≤ 136) : (advance s).upc.toNat = s.upc.toNat + 1 := by
  rw [advance_upc, BitVec.toNat_add]
  exact Nat.mod_eq_of_lt (by simp; omega)

/-- PLEN is the length of what PAD leaves in P, and NBLK its blocks (40_padding.md R123, R125). -/
theorem execPad_lengths (h : execPad s = .next t) :
    t.P.length = s.msgLen.toNat + 1 + zeroCount s.msgLen.toNat + 8 ∧ t.plen.toNat = t.P.length ∧
    t.nblk.toNat = t.plen.toNat / 64 := by
  have len : t.P.length = s.msgLen.toNat + 1 + zeroCount s.msgLen.toNat + 8 := by
    unfold execPad at h
    cases h
    simp
  have plen : t.plen = BitVec.ofNat 64 t.P.length ∧ t.nblk = t.plen / 64#64 := by
    rw [len]
    unfold execPad at h
    cases h
    exact ⟨rfl, rfl⟩
  have bound := zeroCount_lt s.msgLen.toNat
  have small := s.msgLen.isLt
  refine ⟨len, ?_, ?_⟩
  · rw [plen.1, BitVec.toNat_ofNat, Nat.mod_eq_of_lt (by omega)]
  · rw [plen.2, BitVec.toNat_udiv]; rfl

/-- PAD on a message that fits leaves a padded buffer of at least one block, and points at its first (40_padding.md
R120, R125). -/
theorem Inv.pad (h : Inv s) (busy : s.busy = true) (upc : s.upc = 0#8) (padded : execPad s = .next t) : Inv t := by
  obtain ⟨len, plen, nblk⟩ := execPad_lengths padded
  have fits := h.messageFits busy
  have whole := zeroCount_spec s.msgLen.toNat
  have bound := zeroCount_lt s.msgLen.toNat
  have blocks : 1 ≤ t.nblk.toNat := by omega
  rw [execPad_frame padded]
  exact { h with
    plenIsLength := plen
    plenMultiple := by simp only; omega
    nblkIsBlocks := nblk
    paddedFits := by simp only; omega
    bpInRange := Nat.zero_le _
    upcInRange := by simp [upc]
    padded := fun _ _ => blocks
    blockInside := fun _ _ _ => blocks }

/-- An operation of the datapath moves upc inside the block's part of the micro-program. -/
theorem Inv.datapathStep (h : Inv s) (busy : s.busy = true) (lo : 1 ≤ s.upc.toNat) (hi : s.upc.toNat ≤ 132)
    (step : DatapathStep s t) : Inv t := by
  have upc := advance_upc_toNat (h.upcInRange busy)
  rw [step.frame]
  exact { h with
    upcInRange := fun _ => by rw [← advance_upc, upc]; omega
    padded := fun _ _ => h.padded busy lo
    blockInside := fun _ _ _ => h.blockInside busy lo (by omega) }

theorem Inv.coreEffect {i : Instr} (h : Inv s) (busy : s.busy = true) (effect : CoreEffect s i t) : Inv t := by
  cases effect with
  | pad upc padded => exact h.pad busy upc padded
  | datapath lo hi step => exact h.datapathStep busy lo hi step
  | ffwd upc =>
    have inside := h.blockInside busy (by simp [upc]) (by simp [upc])
    have bp : (s.bp + 1#64).toNat = s.bp.toNat + 1 :=
      BitVec.toNat_add_of_lt (by have := s.nblk.isLt; simp; omega)
    exact { h with
      bpInRange := by simp only [advance_bp, advance_nblk, bp]; omega
      upcInRange := by simp [upc]
      padded := fun _ _ => h.padded busy (by simp [upc])
      blockInside := by simp [upc] }
  | loopBack upc more =>
    exact { h with
      upcInRange := by simp
      padded := fun _ _ => h.padded busy (by simp [upc])
      blockInside := fun _ _ _ => more }
  | loopExit upc =>
    exact { h with
      upcInRange := by simp [upc]
      padded := fun _ _ => h.padded busy (by simp [upc])
      blockInside := by simp [upc] }
  | fmt upc =>
    have fits := textOf_length_le s.smode s.H
    have len : (BitVec.ofNat 9 (textOf s.smode s.H).length).toNat = (textOf s.smode s.H).length :=
      Nat.mod_eq_of_lt (by omega)
    exact { h with
      outCanonical := Memory.writeList_wf _ _ h.outCanonical
      outInWindow := fun c hc => (Memory.mem_writeList hc).elim (h.outInWindow c) (by omega)
      outLenBound := by simp only [advance_outLen, len]; exact fits
      textWritten := fun k hk => by
        simp only [advance_outLen, len] at hk
        rw [advance_out, Memory.read_writeList, if_pos (by omega)]
        exact ⟨_, List.getElem?_eq_getElem (by omega)⟩
      upcInRange := by simp [upc]
      padded := fun _ _ => h.padded busy (by simp [upc])
      blockInside := by simp [upc] }
  | endRun =>
    exact { h with
      notBusyAndDone := by simp
      upcInRange := by simp
      messageFits := by simp
      padded := by simp
      blockInside := by simp }

end Sys2Proof.Machine

namespace Sys2Proof.Proofs

open Sys2Proof.Machine

/-- Settles O46. -/
theorem invariantHoldsAtReset : Obligations.InvariantHoldsAtReset := inv_reset

/-- Settles O47, by what each agent's step can do. -/
theorem everyStepKeepsTheInvariant : Obligations.EveryStepKeepsTheInvariant := by
  intro s t h hstep
  rcases step_effect hstep with ⟨-, -, rfl⟩ | ⟨-, busy, i, -, effect⟩ | ⟨x, -, same | write⟩ | ⟨-, rfl⟩
  · exact h.popTurn
  · exact h.popTurn.coreEffect busy effect
  · exact h.popTurn.report same
  · exact h.popTurn.hostWrite write
  · exact inv_resetInput _

/-- Settles O48: the invariant keeps upc on a word of UPROG, every such word completes, and so does every
transaction. -/
theorem everyStepCompletes : Obligations.EveryStepCompletes := by
  intro s h legal
  cases turn : s.nextTurn with
  | core =>
    cases busy : s.busy with
    | false => exact ⟨_, step_idle turn busy⟩
    | true =>
      obtain ⟨w, i, hw, hi, op⟩ := exists_microOp (h.upcInRange busy)
      rw [step_core turn busy hw hi]
      exact op.completes _
  | host x =>
    rw [turn] at legal
    obtain ⟨i, hi⟩ := legal
    rw [step_host turn hi]
    exact host_completes hi _
  | reset => exact ⟨_, step_reset turn⟩

end Sys2Proof.Proofs
end

section
/-! PROOFS. Which agent changes what (20_memory.md R75; 10_state.md R29, R35, R36, R39, R41, R296): the frame of each
agent's step, and the rules that follow from it. -/

namespace Sys2Proof.Machine

variable {s t : State}

/-! ### The frame of each agent's step -/

/-- The message, the configuration and its snapshot are in `t` as in `s`. -/
structure KeepsHostSide (s t : State) : Prop where
  M : t.M = s.M
  msgLen : t.msgLen = s.msgLen
  mode : t.mode = s.mode
  diag : t.diag = s.diag
  smode : t.smode = s.smode
  sdiag : t.sdiag = s.sdiag

/-- The registers and buffers of a run's results, and DIAGSTREAM, are in `t` as in `s`. -/
structure KeepsResults (s t : State) : Prop where
  H : t.H = s.H
  out : t.out = s.out
  outLen : t.outLen = s.outLen
  P : t.P = s.P
  plen : t.plen = s.plen
  nblk : t.nblk = s.nblk
  bp : t.bp = s.bp
  wv : t.wv = s.wv
  W : t.W = s.W
  diagStream : t.diagStream = s.diagStream

theorem KeepsHostSide.refl (s : State) : KeepsHostSide s s := ⟨rfl, rfl, rfl, rfl, rfl, rfl⟩

theorem KeepsResults.refl (s : State) : KeepsResults s s := ⟨rfl, rfl, rfl, rfl, rfl, rfl, rfl, rfl, rfl, rfl⟩

theorem sameButReport.keepsHostSide (h : sameButReport s t) : KeepsHostSide s t := by
  rw [h]; exact { KeepsHostSide.refl s with }

theorem sameButReport.keepsResults (h : sameButReport s t) : KeepsResults s t := by
  rw [h]; exact { KeepsResults.refl s with }

theorem sameButReport.busy_eq (h : sameButReport s t) : t.busy = s.busy := by rw [h]

/-- No operation of the core touches what the host owns. -/
theorem CoreEffect.keepsHostSide {i : Instr} (h : CoreEffect s i t) : KeepsHostSide s t := by
  have same := KeepsHostSide.refl s
  cases h with
  | pad _ padded => rw [execPad_frame padded]; exact { same with }
  | datapath _ _ step => rw [step.frame]; exact { same with }
  | _ => exact { same with }

/-- No operation of the core changes CMD_ERR. -/
theorem CoreEffect.cmdErr_eq {i : Instr} (h : CoreEffect s i t) : t.cmdErr = s.cmdErr := by
  cases h with
  | pad _ padded => rw [execPad_frame padded]
  | datapath _ _ step => rw [step.frame]
  | _ => rfl

/-- No write of the host touches the results of a run. -/
theorem HostWrite.keepsResults {x : BusTxn} (h : HostWrite s x t) : KeepsResults s t := by
  cases h <;> exact { KeepsResults.refl s with }

/-- Whatever step but reset is taken, the host's side is kept or an accepted write was its turn. -/
theorem step_hostSide (h : step s = .next t) (noReset : s.nextTurn ≠ .reset) :
    KeepsHostSide s t ∨ ∃ x, s.nextTurn = .host x ∧ HostWrite (popTurn s) x t := by
  rcases step_effect h with ⟨-, -, rfl⟩ | ⟨-, -, i, -, effect⟩ | ⟨x, turn, same | write⟩ | ⟨reset, -⟩
  · exact .inl { KeepsHostSide.refl s with }
  · exact .inl { effect.keepsHostSide with }
  · exact .inl { same.keepsHostSide with }
  · exact .inr ⟨x, turn, write⟩
  · exact absurd reset noReset

/-- Only END among the core's operations changes BUSY. -/
theorem CoreEffect.busy_eq_or_endRun {i : Instr} (h : CoreEffect s i t) :
    t.busy = s.busy ∨ (i = .endRun ∧ t = finishRun s) := by
  cases h with
  | pad _ padded => exact .inl (by rw [execPad_frame padded])
  | datapath _ _ step => exact .inl (by rw [step.frame])
  | endRun => exact .inr ⟨rfl, rfl⟩
  | _ => exact .inl rfl

/-- The core only appends to DIAGSTREAM. -/
theorem CoreEffect.streamGrows {i : Instr} (h : CoreEffect s i t) : s.diagStream <+: t.diagStream := by
  cases h with
  | pad _ padded => rw [execPad_frame padded]
  | datapath _ _ step => exact step.streamGrows
  | _ => exact List.prefix_rfl

/-- BUSY in a step but reset: kept, lowered by END, or raised by an accepted DIGEST. -/
theorem step_busy (h : step s = .next t) (noReset : s.nextTurn ≠ .reset) :
    t.busy = s.busy ∨
    (s.busy = true ∧ s.nextTurn = .core ∧ (uprogWord s.upc).map decodeCommand = some (.ok .endRun) ∧ t.done = true) ∨
    (s.busy = false ∧ s.nextTurn = .host (cmdTxn 0x0100#32) ∧ s.msgLen.toNat ≤ Config.maxMsgBytes ∧ t.done = false ∧
      t.upc = 0#8) := by
  rcases step_effect h with ⟨-, -, rfl⟩ | ⟨turn, busy, i, hi, effect⟩ | ⟨x, turn, same | write⟩ | ⟨reset, -⟩
  · exact .inl rfl
  · rcases effect.busy_eq_or_endRun with kept | ⟨rfl, rfl⟩
    · exact .inl kept
    · exact .inr (.inl ⟨busy, turn, hi, rfl⟩)
  · exact .inl same.busy_eq
  · cases write with
    | digest idle fits => exact .inr (.inr ⟨idle, turn, fits, rfl, rfl⟩)
    | _ => exact .inl rfl
  · exact absurd reset noReset

/-! ### CMD_ERR -/

theorem execRd32_keeps_cmdErr {off : BitVec 32} (h : execRd32 off s = .next t) (err : s.cmdErr = true) :
    t.cmdErr = true := by
  unfold execRd32 at h
  cases h
  split
  case h_4 => split <;> exact err
  case h_6 => split <;> exact err
  case h_7 | h_8 | h_9 => rfl
  all_goals exact err

theorem returnStored_cmdErr (s : State) (b : Option Byte) : (returnStored s b).cmdErr = s.cmdErr := by
  cases b <;> rfl

theorem execRd8_keeps_cmdErr {off : BitVec 32} (h : execRd8 off s = .next t) (err : s.cmdErr = true) :
    t.cmdErr = true := by
  unfold execRd8 at h
  cases h
  split
  case h_1 =>
    split
    · exact err
    · rw [returnStored_cmdErr]; exact err
  case h_2 => rw [returnStored_cmdErr]; exact err
  case h_3 => exact err
  all_goals rfl

theorem execWr8_keeps_cmdErr {off : BitVec 32} {v : Byte} (h : execWr8 off v s = .next t) (err : s.cmdErr = true) :
    t.cmdErr = true := by
  unfold execWr8 at h
  cases h
  split
  case h_1 =>
    split
    · rfl
    · exact err
  all_goals rfl

theorem issueCommand_keeps_cmdErr {v : Word} (h : issueCommand v s = .next t) (err : s.cmdErr = true) :
    t.cmdErr = true := by
  unfold issueCommand at h
  split at h
  · cases h; rfl
  split at h
  case h_2 => cases h; exact err
  case h_3 =>
    cases h
    split
    · rfl
    · split
      · rfl
      · exact err
  case h_4 =>
    cases h
    split
    · exact err
    · rfl
  case h_5 => cases h; exact err
  all_goals cases h; rfl

/-- Of the 32-bit writes only one to STATUS with bit 2 set clears CMD_ERR (10_state.md R35). -/
theorem execWr32_clears_cmdErr {off v : BitVec 32} (h : execWr32 off v s = .next t) (err : s.cmdErr = true)
    (clear : t.cmdErr = false) : off = 0x0004#32 ∧ v.getLsbD 2 = true := by
  unfold execWr32 at h
  split at h
  case h_1 => rw [issueCommand_keeps_cmdErr h err] at clear; cases clear
  case h_2 status =>
    refine ⟨regionOf_eq_status status, ?_⟩
    by_contra bit
    cases h
    rw [writeStatus, if_neg bit, err] at clear
    cases clear
  case h_5 =>
    cases h
    split at clear
    · cases clear
    · rw [err] at clear; cases clear
  all_goals cases h; cases clear

end Sys2Proof.Machine

namespace Sys2Proof.Proofs

open Sys2Proof Sys2Proof.Machine Sys2Proof.Claims

/-- Settles O49: of the accepted writes only those met while BUSY = 0 touch M or MSG_LEN. -/
theorem theMessageIsOwnedByTheCore : Obligations.TheMessageIsOwnedByTheCore := by
  intro s t h noReset
  rcases step_hostSide h noReset with kept | ⟨x, turn, write⟩
  · exact ⟨fun _ => ⟨kept.M, kept.msgLen⟩, fun change => absurd kept.M change⟩
  · cases write with
    | msgLen v idle => exact ⟨fun busy => absurd (idle.symm.trans busy) (by decide), fun change => absurd rfl change⟩
    | msgByte b idle offset inside =>
      refine ⟨fun busy => absurd (idle.symm.trans busy) (by decide), fun _ => ⟨_, _, turn, rfl, rfl, rfl, ?_⟩⟩
      constructor <;> simp only [offset] <;> omega
    | _ => exact ⟨fun _ => ⟨rfl, rfl⟩, fun change => absurd rfl change⟩

/-- Settles O50: of the accepted writes only the two commands' change MODE or DIAG. -/
theorem configurationChangesOnlyByCommand : Obligations.ConfigurationChangesOnlyByCommand := by
  intro s t h noReset
  rcases step_hostSide h noReset with kept | ⟨x, turn, write⟩
  · exact ⟨fun change => absurd kept.mode change, fun change => absurd kept.diag change⟩
  · cases write with
    | setmode m legal => exact ⟨fun _ => ⟨m, legal, turn⟩, fun change => absurd rfl change⟩
    | togglediag => exact ⟨fun change => absurd rfl change, fun _ => turn⟩
    | _ => exact ⟨fun change => absurd rfl change, fun change => absurd rfl change⟩

/-- Settles O51: of the accepted writes only DIGEST changes the snapshot. -/
theorem snapshotOnlyAtAcceptance : Obligations.SnapshotOnlyAtAcceptance := by
  intro s t h noReset change
  rcases step_hostSide h noReset with kept | ⟨x, turn, write⟩
  · exact absurd change (not_or.2 ⟨not_not.2 kept.smode, not_not.2 kept.sdiag⟩)
  · cases write with
    | digest idle fits => exact ⟨turn, idle, rfl, rfl, rfl⟩
    | _ => exact absurd change (not_or.2 ⟨not_not.2 rfl, not_not.2 rfl⟩)

/-- Settles O52, by the four transactions: of them a 32-bit write alone can clear CMD_ERR. -/
theorem cmdErrIsSticky : Obligations.CmdErrIsSticky := by
  intro s t h err clear
  rcases step_cases h with ⟨-, -, rfl⟩ | ⟨-, -, w, i, hw, hi, he⟩ | ⟨x, i, turn, hx, he⟩ | ⟨reset, -⟩
  · exact absurd (clear.symm.trans err) (by decide)
  · have kept : t.cmdErr = s.cmdErr := ((microOp_of_uprogWord hw hi).effect (s := popTurn s) rfl he).cmdErr_eq
    exact absurd (clear.symm.trans (kept.trans err)) (by decide)
  · rcases decodeBus_cases hx with ⟨off, -, rfl⟩ | ⟨off, -, rfl⟩ | ⟨off, v, rfl, rfl⟩ | ⟨off, v, -, rfl⟩
    · exact absurd (clear.symm.trans (execRd32_keeps_cmdErr he err)) (by decide)
    · exact absurd (clear.symm.trans (execRd8_keeps_cmdErr he err)) (by decide)
    · obtain ⟨rfl, bit⟩ := execWr32_clears_cmdErr he err clear
      exact .inr ⟨v, bit, turn⟩
    · exact absurd (clear.symm.trans (execWr8_keeps_cmdErr he err)) (by decide)
  · exact .inl reset

/-- Settles O53: the core appends, the host leaves the stream. -/
theorem diagStreamOnlyGrows : Obligations.DiagStreamOnlyGrows := by
  intro s t h noReset
  rcases step_effect h with ⟨-, -, rfl⟩ | ⟨-, -, i, -, effect⟩ | ⟨x, -, same | write⟩ | ⟨reset, -⟩
  · exact List.prefix_rfl
  · exact effect.streamGrows
  · exact same.keepsResults.diagStream ▸ List.prefix_rfl
  · exact write.keepsResults.diagStream ▸ List.prefix_rfl
  · exact absurd reset noReset

/-- Settles O54: of all effects only END lowers BUSY and only the acceptance of DIGEST raises it. -/
theorem busyFromDigestToEnd : Obligations.BusyFromDigestToEnd := by
  intro s t h noReset
  rcases step_busy h noReset with kept | ⟨busy, lowers⟩ | ⟨idle, raises⟩
  · exact ⟨fun busy low => absurd (low.symm.trans (kept.trans busy)) (by decide),
      fun idle high => absurd (idle.symm.trans (kept.symm.trans high)) (by decide)⟩
  · exact ⟨fun _ _ => lowers, fun idle => absurd (idle.symm.trans busy) (by decide)⟩
  · exact ⟨fun busy => absurd (idle.symm.trans busy) (by decide), fun _ _ => raises⟩

/-- Settles O55: while BUSY = 0 the core has no step, and the host leaves the results. -/
theorem resultsAreHeldWhileIdle : Obligations.ResultsAreHeldWhileIdle := by
  intro s t h noReset idle
  suffices kept : KeepsResults s t from ⟨kept.H, kept.out, kept.outLen, kept.P, kept.plen, kept.nblk, kept.bp, kept.wv,
    kept.W, kept.diagStream⟩
  rcases step_effect h with ⟨-, -, rfl⟩ | ⟨-, busy, -⟩ | ⟨x, -, same | write⟩ | ⟨reset, -⟩
  · exact { KeepsResults.refl s with }
  · exact absurd (idle.symm.trans busy) (by decide)
  · exact { same.keepsResults with }
  · exact { write.keepsResults with }
  · exact absurd reset noReset

end Sys2Proof.Proofs
end

section
/-! PROOFS. Diagnostics never change the result (43_output.md R205): every step commutes with forgetting SDIAG and
DIAGSTREAM. -/

namespace Sys2Proof.Machine

/-- The state with the diagnostics snapshot and the diagnostic stream forgotten. -/
def State.forgetDiagnostics (s : State) : State := { s with sdiag := false, diagStream := [] }

/-- An answer with the diagnostics of its next state forgotten. -/
def forgetResult : Result → Result
  | .next t => .next t.forgetDiagnostics
  | .fault r => .fault r
  | .refused r => .refused r

/-- States that differ at most in their diagnostics are those that are one when it is forgotten. -/
theorem sameButDiagnostics_iff {s t : State} :
    s.sameButDiagnostics t ↔ s.forgetDiagnostics = t.forgetDiagnostics := by
  constructor
  · intro h; rw [h]; rfl
  · intro h
    have back : { t.forgetDiagnostics with sdiag := t.sdiag, diagStream := t.diagStream } = t := rfl
    rw [← h] at back
    exact back.symm

theorem forgetResult_eq_next {r : Result} {u : State} (h : forgetResult r = .next u) :
    ∃ t, r = .next t ∧ t.forgetDiagnostics = u := by
  cases r with
  | next t => exact ⟨t, rfl, Host.Outcome.next.inj h⟩
  | fault r => cases h
  | refused r => cases h

theorem forgetResult_eq_fault {r : Result} {f : Fault} : forgetResult r = .fault f ↔ r = .fault f := by
  cases r <;> simp [forgetResult]

theorem forgetResult_eq_refused {r : Result} {f : Refusal} : forgetResult r = .refused f ↔ r = .refused f := by
  cases r <;> simp [forgetResult]

/-- A choice that does not rest on the diagnostics. -/
theorem forgetDiagnostics_ite {c : Prop} [Decidable c] {a b a' b' : State}
    (ha : a.forgetDiagnostics = a'.forgetDiagnostics) (hb : b.forgetDiagnostics = b'.forgetDiagnostics) :
    (if c then a else b).forgetDiagnostics = (if c then a' else b').forgetDiagnostics := by
  split
  · exact ha
  · exact hb

/-! ### The operations that meet the diagnostics -/

/-- DIAGP draws nothing when P holds PLEN bytes, so only DIAGSTREAM tells whether it emitted. -/
theorem execDiagp_forgetDiagnostics {s : State} (whole : s.plen.toNat = s.P.length) :
    forgetResult (execDiagp s) = .next (advance s).forgetDiagnostics := by
  rw [execDiagp_whole whole]
  split <;> rfl

theorem execDiagw_forgetDiagnostics (s : State) :
    forgetResult (execDiagw s) = .next (advance s).forgetDiagnostics := by
  unfold execDiagw
  split <;> rfl

/-! ### The instructions -/

theorem execDigest_forgetDiagnostics (s : State) :
    forgetResult (execDigest s) = forgetResult (execDigest s.forgetDiagnostics) :=
  congrArg Host.Outcome.next (forgetDiagnostics_ite rfl (forgetDiagnostics_ite rfl rfl))

theorem execSetmode_forgetDiagnostics (m : BitVec 8) (s : State) :
    forgetResult (execSetmode m s) = forgetResult (execSetmode m s.forgetDiagnostics) :=
  congrArg Host.Outcome.next (forgetDiagnostics_ite rfl rfl)

theorem issueCommand_forgetDiagnostics (v : Word) (s : State) :
    forgetResult (issueCommand v s) = forgetResult (issueCommand v s.forgetDiagnostics) := by
  unfold issueCommand
  split
  · rfl
  · split
    case h_3 => exact execDigest_forgetDiagnostics s
    case h_4 m _ => exact execSetmode_forgetDiagnostics m s
    all_goals rfl

theorem execRd32_forgetDiagnostics (off : BitVec 32) (s : State) :
    forgetResult (execRd32 off s) = forgetResult (execRd32 off s.forgetDiagnostics) := by
  unfold execRd32
  split
  case h_4 | h_6 => exact congrArg Host.Outcome.next (forgetDiagnostics_ite rfl rfl)
  all_goals rfl

theorem returnStored_forgetDiagnostics (s : State) (b : Option Byte) :
    (returnStored s b).forgetDiagnostics = (returnStored s.forgetDiagnostics b).forgetDiagnostics := by
  cases b <;> rfl

theorem execRd8_forgetDiagnostics (off : BitVec 32) (s : State) :
    forgetResult (execRd8 off s) = forgetResult (execRd8 off s.forgetDiagnostics) := by
  unfold execRd8
  split
  case h_1 =>
    exact congrArg Host.Outcome.next (forgetDiagnostics_ite rfl (returnStored_forgetDiagnostics s _))
  case h_2 => exact congrArg Host.Outcome.next (returnStored_forgetDiagnostics s _)
  all_goals rfl

theorem execWr32_forgetDiagnostics (off v : BitVec 32) (s : State) :
    forgetResult (execWr32 off v s) = forgetResult (execWr32 off v s.forgetDiagnostics) := by
  unfold execWr32
  split
  case h_1 => exact issueCommand_forgetDiagnostics v s
  case h_2 | h_5 => exact congrArg Host.Outcome.next (forgetDiagnostics_ite rfl rfl)
  all_goals rfl

theorem execWr8_forgetDiagnostics (off : BitVec 32) (v : Byte) (s : State) :
    forgetResult (execWr8 off v s) = forgetResult (execWr8 off v s.forgetDiagnostics) := by
  unfold execWr8
  split
  case h_1 => exact congrArg Host.Outcome.next (forgetDiagnostics_ite rfl rfl)
  all_goals rfl

/-- Every instruction commutes with forgetting the diagnostics, where P holds PLEN bytes. -/
theorem exec_forgetDiagnostics (i : Instr) {s : State} (whole : s.plen.toNat = s.P.length) :
    forgetResult (exec i s) = forgetResult (exec i s.forgetDiagnostics) := by
  cases i with
  | digest => exact execDigest_forgetDiagnostics s
  | setmode m => exact execSetmode_forgetDiagnostics m s
  | loadw t => simp only [exec, execLoadw]; split <;> rfl
  | expw t => simp only [exec, execExpw]; split <;> rfl
  | round j => simp only [exec, execRound]; split <;> rfl
  | loopblk tgt =>
    simp only [exec, execLoopblk]
    split
    · exact congrArg Host.Outcome.next (forgetDiagnostics_ite rfl rfl)
    · rfl
  | diagp =>
    have forgotten := execDiagp_forgetDiagnostics (s := s.forgetDiagnostics) whole
    exact (execDiagp_forgetDiagnostics whole).trans forgotten.symm
  | diagw => exact (execDiagw_forgetDiagnostics s).trans (execDiagw_forgetDiagnostics s.forgetDiagnostics).symm
  | rd32 off => exact execRd32_forgetDiagnostics off s
  | wr32 off v => exact execWr32_forgetDiagnostics off v s
  | rd8 off => exact execRd8_forgetDiagnostics off s
  | wr8 off v => exact execWr8_forgetDiagnostics off v s
  | _ => rfl

/-! ### The step -/

/-- Every step of any agent commutes with forgetting the diagnostics. -/
theorem step_forgetDiagnostics {s : State} (h : Inv s) :
    forgetResult (step s) = forgetResult (step s.forgetDiagnostics) := by
  cases turn : s.nextTurn with
  | core =>
    cases busy : s.busy with
    | false =>
      rw [step_idle turn busy, step_idle (s := s.forgetDiagnostics) turn busy]
      rfl
    | true =>
      obtain ⟨w, i, hw, hi, -⟩ := exists_microOp (h.upcInRange busy)
      rw [step_core turn busy hw hi, step_core (s := s.forgetDiagnostics) turn busy hw hi]
      exact exec_forgetDiagnostics i (s := popTurn s) h.plenIsLength
  | host x =>
    simp only [step, nextAction_host turn, nextAction_host (s := s.forgetDiagnostics) turn, hostAction]
    cases decodeBus x with
    | error e => rfl
    | ok i => exact exec_forgetDiagnostics i (s := popTurn s) h.plenIsLength
  | reset =>
    rw [step_reset turn, step_reset (s := s.forgetDiagnostics) turn]
    rfl

end Sys2Proof.Machine

namespace Sys2Proof.Proofs

open Sys2Proof.Machine

/-- Settles O30: a step answers the same whether the diagnostics are forgotten before it or after it, so states that
are one when it is forgotten have answers that are one. -/
theorem diagnosticsNeverChangeTheResult : Obligations.DiagnosticsNeverChangeTheResult := by
  intro s t inv same
  have forgotten := sameButDiagnostics_iff.1 same
  have invT : Inv t := by rw [same]; exact { inv with }
  have answers : forgetResult (step s) = forgetResult (step t) :=
    calc forgetResult (step s) = forgetResult (step s.forgetDiagnostics) := step_forgetDiagnostics inv
      _ = forgetResult (step t.forgetDiagnostics) := by rw [forgotten]
      _ = forgetResult (step t) := (step_forgetDiagnostics invT).symm
  refine ⟨fun s' hs => ?_, fun r => ?_, fun r => ?_⟩
  · rw [hs] at answers
    obtain ⟨t', ht, alike⟩ := forgetResult_eq_next answers.symm
    exact ⟨t', ht, sameButDiagnostics_iff.2 alike.symm⟩
  · rw [← forgetResult_eq_fault, answers, forgetResult_eq_fault]
  · rw [← forgetResult_eq_refused, answers, forgetResult_eq_refused]

end Sys2Proof.Proofs
end

section
/-! PROOFS. The sequencer and the host bus in a run: the step performs the decoded instruction (44_control.md R227), a
reserved offset reads 0 and rejects writes (20_memory.md R70), and no host transaction disturbs a run (20_memory.md
R75). -/

namespace Sys2Proof.Machine

variable {s t : State}

/-! ### The turn that moves -/

theorem popTurn_eq_of_cons {x : Turn} {rest : List Turn} (h : s.turns = x :: rest) :
    popTurn s = { s with turns := rest } := by
  simp [popTurn, h]

theorem popTurn_eq_of_nil (h : s.turns = []) : popTurn s = s := by
  cases s
  cases h
  rfl

theorem nextTurn_eq_of_cons {x : Turn} {rest : List Turn} (h : s.turns = x :: rest) : s.nextTurn = x := by
  simp [State.nextTurn, h]

theorem nextTurn_eq_of_nil (h : s.turns = []) : s.nextTurn = .core := by simp [State.nextTurn, h]

/-! ### What a run in progress works on -/

theorem State.sameRun_refl (s : State) : s.sameRun s :=
  ⟨rfl, rfl, rfl, rfl, rfl, rfl, rfl, rfl, rfl, rfl, rfl, rfl, rfl, rfl, rfl, rfl, rfl⟩

/-- A report to the host leaves the run. -/
theorem sameButReport.sameRun (h : sameButReport s t) : s.sameRun t := by
  rw [h]; exact State.sameRun_refl s

/-- The writes that are accepted while BUSY = 1, SETMODE and TOGGLEDIAG, leave the run (44_control.md R225, R226). -/
theorem HostWrite.sameRun_of_busy {x : BusTxn} (h : HostWrite s x t) (busy : s.busy = true) : s.sameRun t := by
  cases h with
  | msgLen v idle => rw [busy] at idle; cases idle
  | msgByte b idle offset inside => rw [busy] at idle; cases idle
  | digest idle fits => rw [busy] at idle; cases idle
  | setmode m legal => exact State.sameRun_refl s
  | togglediag => exact State.sameRun_refl s

/-- Performing a host transaction while BUSY = 1 leaves the run. -/
theorem sameRun_of_host {x : BusTxn} {i : Instr} (hx : decodeBus x = .ok i) (h : exec i s = .next t)
    (busy : s.busy = true) : s.sameRun t :=
  (host_effect hx h).elim (·.sameRun) (·.sameRun_of_busy busy)

end Sys2Proof.Machine

namespace Sys2Proof.Proofs

open Sys2Proof Sys2Proof.Machine Sys2Proof.Claims

/-- Settles O56: a host step reports or is an accepted write, and neither touches the run while BUSY = 1. -/
theorem hostStepsDoNotDisturbTheRun : Obligations.HostStepsDoNotDisturbTheRun := by
  intro s t x h busy turn
  rcases step_cases h with ⟨core, -⟩ | ⟨core, -⟩ | ⟨y, i, -, hy, he⟩ | ⟨reset, -⟩
  · rw [turn] at core; cases core
  · rw [turn] at core; cases core
  · exact sameRun_of_host (s := popTurn s) hy he busy
  · rw [turn] at reset; cases reset

/-- Settles O6, by the four rules of a step and what the turn leaves of the list. -/
theorem stepRunsTheDecodedInstruction : Obligations.StepRunsTheDecodedInstruction := by
  refine ⟨fun s w i busy none hw hi => ?_, fun s rest w i busy head hw hi => ?_, fun s idle none => ?_,
    fun s rest idle head => ?_, fun s rest x i head hi => ?_⟩
  · rw [step_core (nextTurn_eq_of_nil none) busy hw hi, popTurn_eq_of_nil none]
  · rw [step_core (nextTurn_eq_of_cons head) busy hw hi, popTurn_eq_of_cons head]
  · rw [step_idle (nextTurn_eq_of_nil none) idle, popTurn_eq_of_nil none]
  · rw [step_idle (nextTurn_eq_of_cons head) idle, popTurn_eq_of_cons head]
  · rw [step_host (nextTurn_eq_of_cons head) hi, popTurn_eq_of_cons head]

/-- Settles O43: a reserved offset selects the reserved region, where each of the four transactions has one answer. -/
theorem reservedOffsets : Obligations.ReservedOffsets := by
  intro s off h
  have region : regionOf off = .reserved := regionOf_reserved h
  refine ⟨?_, ?_, fun v => ?_, fun v => ?_⟩
  · simp only [exec, execRd32, region]; rfl
  · simp only [exec, execRd8, region]; rfl
  · simp only [exec, execWr32, region]; rfl
  · simp only [exec, execWr8, region]; rfl

end Sys2Proof.Proofs
end

section
/-! PROOFS. The spec's stage functions word by word (41_schedule.md R140, R142; 42_compression.md R166, R172). -/

namespace Sys2Proof.Machine

variable {block : List Byte} {v w : Vector Word 64} {j n : Nat}

theorem loadWords_getElem (hj : j < 64) :
    (loadWords block n w)[j] = if j < n then be32 ((block.drop (4 * j)).take 4) else w[j] := by
  induction n with
  | zero => simp [loadWords]
  | succ n ih =>
    rw [loadWords, Vector.getElem_setIfInBounds, ih]
    rcases lt_trichotomy j n with lt | rfl | gt
    · rw [if_neg (by omega), if_pos lt, if_pos (by omega)]
    · rw [if_pos rfl, if_pos (by omega)]
    · rw [if_neg (by omega), if_neg (by omega), if_neg (by omega)]

/-- A derived word depends only on the words before it. -/
theorem expandWord_congr {t : Nat} (h : 16 ≤ t ∧ t ≤ 63) (same : ∀ (j : Nat) (hj : j < 64), j < t → v[j] = w[j]) :
    expandWord v t h = expandWord w t h := by
  unfold expandWord
  rw [same (t - 16) _ (by omega), same (t - 15) _ (by omega), same (t - 7) _ (by omega), same (t - 2) _ (by omega)]

theorem expandWords_succ (h : 16 ≤ 16 + n ∧ 16 + n ≤ 63) :
    expandWords (n + 1) w =
      (expandWords n w).set (16 + n) (expandWord (expandWords n w) (16 + n) h) (by omega) := by
  rw [expandWords, dif_pos h]

/-- Deriving further words leaves the words there are. -/
theorem expandWords_getElem {m : Nat} (hj : j < 64) (old : j < 16 + n) (le : n ≤ m) (hm : m ≤ 48) :
    (expandWords m w)[j] = (expandWords n w)[j] := by
  induction m, le using Nat.le_induction with
  | base => rfl
  | succ m le ih =>
    simp only [expandWords_succ (show 16 ≤ 16 + m ∧ 16 + m ≤ 63 by omega)]
    rw [Vector.getElem_set_ne _ _ (by omega), ih (by omega)]

/-- The first 16 words of a schedule are the block's (41_schedule.md R140). -/
theorem scheduleOf_getElem_load (hj : j < 16) :
    (scheduleOf block)[j] = be32 ((block.drop (4 * j)).take 4) := by
  rw [scheduleOf, expandWords_getElem (n := 0) (by omega) hj (by omega) le_rfl, expandWords,
    loadWords_getElem (by omega), if_pos hj]

/-- The other words of a schedule are derived from those before them (41_schedule.md R142). -/
theorem scheduleOf_getElem_expand {t : Nat} (h : 16 ≤ t ∧ t ≤ 63) :
    (scheduleOf block)[t] = expandWord (scheduleOf block) t h := by
  obtain ⟨n, rfl⟩ := Nat.exists_eq_add_of_le h.1
  calc (scheduleOf block)[16 + n]
    _ = (expandWords (n + 1) (loadWords block 16 (Vector.replicate 64 0#32)))[16 + n] :=
      expandWords_getElem (by omega) (by omega) (by omega) le_rfl
    _ = expandWord (expandWords n (loadWords block 16 (Vector.replicate 64 0#32))) (16 + n) h := by
      simp only [expandWords_succ h, Vector.getElem_set_self]
    _ = expandWord (scheduleOf block) (16 + n) h :=
      expandWord_congr h fun j hj old => (expandWords_getElem hj old (by omega) le_rfl).symm

/-- Four bytes of a block are four bytes of the buffer (00_scope.md R12). -/
theorem blockOf_word (P : List Byte) (b : Nat) (hj : j < 16) :
    ((blockOf P b).drop (4 * j)).take 4 = (P.drop (64 * b + 4 * j)).take 4 := by
  rw [blockOf, List.drop_take, List.take_take, List.drop_drop, Nat.min_eq_left (by omega)]

theorem roundsUpTo_succ {u : WorkVars} (h : n < 64) :
    roundsUpTo w (n + 1) u = roundStep (roundsUpTo w n u) roundConstants[n] w[n] := by
  rw [roundsUpTo, dif_pos h]

end Sys2Proof.Machine
end

section
/-! PROOFS. A run in progress (44_control.md R228, R229): what the state holds after each of the core's steps since
acceptance, and that the operation at upc leads to what it holds after the next. -/

namespace Sys2Proof.Machine

open Sys2Proof.Claims

variable {s t : State} {msg : List Byte} {b n : Nat}

/-! ### The operation at upc -/

/-- The micro-program's word at an address decodes to its operation. -/
theorem MicroOp.word {a : BitVec 8} {i : Instr} (op : MicroOp a i) :
    ∃ w, uprogWord a = some w ∧ decodeCommand w = .ok i := by
  have operand : ∀ {t : BitVec 8} {m : Nat}, m = t.toNat → BitVec.ofNat 8 m = t := by rintro t m rfl; simp
  cases op with
  | @loadw _ t legal addr =>
    have same : BitVec.ofNat 8 (a.toNat - 3) = t := operand (by omega)
    exact ⟨_, by rw [uprogWord_loadw (by omega) (by omega), same], decodeCommand_loadw legal⟩
  | @expw _ t legal addr =>
    have same : BitVec.ofNat 8 (a.toNat - 3) = t := operand (by omega)
    exact ⟨_, by rw [uprogWord_expw (by omega) (by omega), same], decodeCommand_expw legal⟩
  | @round _ t legal addr =>
    have same : BitVec.ofNat 8 (a.toNat - 69) = t := operand (by omega)
    exact ⟨_, by rw [uprogWord_round (by omega) (by omega), same], decodeCommand_round legal⟩
  | _ => exact ⟨_, rfl, rfl⟩

/-- A core step while BUSY = 1 performs the operation at upc (44_control.md R227, R229). -/
theorem step_microOp {i : Instr} (turn : s.nextTurn = .core) (busy : s.busy = true) (op : MicroOp s.upc i) :
    step s = exec i (popTurn s) := by
  obtain ⟨w, hw, hi⟩ := op.word
  exact step_core turn busy hw hi

/-- No operation of the core touches the pending turns. -/
theorem CoreEffect.turns_eq {i : Instr} (h : CoreEffect s i t) : t.turns = s.turns := by
  cases h with
  | pad _ padded => rw [execPad_frame padded]
  | datapath _ _ step => rw [step.frame]
  | _ => rfl

/-! ### The stages of a run -/

/-- The schedule of block `b` of a message. -/
def blockSchedule (msg : List Byte) (b : Nat) : Vector Word 64 := scheduleOf (blockOf (padMessage msg) b)

/-- PAD has left the padded message in P. -/
structure Padded (msg : List Byte) (s : State) : Prop where
  P : s.P = padMessage msg
  nblk : s.nblk.toNat = blockCount msg.length

/-- `b` blocks have been compressed: H is the hash of them, and BP points at the next. -/
structure Hashed (msg : List Byte) (b : Nat) (s : State) : Prop extends Padded msg s where
  bp : s.bp.toNat = b
  H : s.H = hashAfter (padMessage msg) b

/-- The first `t` words of W are those of the schedule of block `b`. -/
def holdsWords (msg : List Byte) (b t : Nat) (s : State) : Prop :=
  ∀ (j : Nat) (hj : j < 64), j < t → s.W[j] = (blockSchedule msg b)[j]

/-- `RunStage msg s n`: what `s` holds after `n` of the core's steps of a run on `msg`, but for its last (44_control.md
R229). -/
inductive RunStage (msg : List Byte) (s : State) : Nat → Prop
  | accepted (upc : s.upc = 0#8) (message : s.holdsMessage msg) : RunStage msg s 0
  | padded (upc : s.upc = 1#8) (padded : Padded msg s) (bp : s.bp = 0#64) : RunStage msg s 1
  | reported (upc : s.upc = 2#8) (padded : Padded msg s) (bp : s.bp = 0#64) : RunStage msg s 2
  | scheduling {b t n : Nat} (upc : s.upc.toNat = 3 + t) (bound : t ≤ 64) (inside : b < blockCount msg.length)
      (hashed : Hashed msg b s) (words : holdsWords msg b t s) (count : n = 132 * b + t + 3) : RunStage msg s n
  | scheduled {b n : Nat} (upc : s.upc = 68#8) (inside : b < blockCount msg.length) (hashed : Hashed msg b s)
      (words : s.W = blockSchedule msg b) (count : n = 132 * b + 68) : RunStage msg s n
  | compressing {b i n : Nat} (upc : s.upc.toNat = 69 + i) (bound : i ≤ 64) (inside : b < blockCount msg.length)
      (hashed : Hashed msg b s) (words : s.W = blockSchedule msg b)
      (vars : s.wv = roundsUpTo (blockSchedule msg b) i (workVarsOf s.H)) (count : n = 132 * b + i + 69) :
      RunStage msg s n
  | compressed {b n : Nat} (upc : s.upc = 134#8) (inside : b < blockCount msg.length) (hashed : Hashed msg (b + 1) s)
      (count : n = 132 * b + 134) : RunStage msg s n
  | finished {n : Nat} (upc : s.upc = 135#8) (H : s.H = digestWords msg)
      (count : n = 132 * blockCount msg.length + 3) : RunStage msg s n
  | formatted {n : Nat} (upc : s.upc = 136#8) (H : s.H = digestWords msg)
      (text : s.showsText (textOf s.smode (digestWords msg))) (count : n = 132 * blockCount msg.length + 4) :
      RunStage msg s n

/-- From `s` the operation at upc, which is not END, leads to the stage after `n` steps. -/
def LeadsTo (msg : List Byte) (s : State) (n : Nat) : Prop :=
  ∃ i t, MicroOp s.upc i ∧ i ≠ .endRun ∧ exec i s = .next t ∧ RunStage msg t n

/-! ### Each stage leads to the next -/

theorem padMessage_length_eq_blocks (msg : List Byte) : (padMessage msg).length = 64 * blockCount msg.length :=
  padMessage_blocks msg

theorem digestWords_eq (msg : List Byte) : digestWords msg = hashAfter (padMessage msg) (blockCount msg.length) := by
  rw [digestWords, padMessage_length_eq_blocks, Nat.mul_div_cancel_left _ (by omega)]

/-- PAD pads the message that stands in M (40_padding.md R120, R123). -/
theorem leadsTo_padded (upc : s.upc = 0#8) (message : s.holdsMessage msg) : LeadsTo msg s 1 := by
  have pads := execPad_written message.1 message.2
  obtain ⟨-, plen, nblk⟩ := execPad_lengths pads
  refine ⟨.pad, _, upc ▸ .pad, nofun, pads, .padded (by simp [upc]) ⟨rfl, ?_⟩ rfl⟩
  rw [nblk, plen]
  simp only [advance_P, padMessage_length_eq_blocks]
  omega

/-- DIAGP leaves what the run works on. -/
theorem leadsTo_reported (upc : s.upc = 1#8) (padded : Padded msg s) (bp : s.bp = 0#64) : LeadsTo msg s 2 := by
  obtain ⟨t, ht⟩ := MicroOp.diagp.completes s
  refine ⟨.diagp, t, upc ▸ .diagp, nofun, ht, ?_⟩
  rw [execDiagp_frame ht]
  exact .reported (by simp [upc]) { padded with } bp

/-- LDIV sets H to the hash of no block. -/
theorem leadsTo_firstBlock (upc : s.upc = 2#8) (padded : Padded msg s) (bp : s.bp = 0#64) : LeadsTo msg s 3 :=
  ⟨.ldiv, _, upc ▸ .ldiv, nofun, rfl, .scheduling (b := 0) (t := 0) (by simp [upc]) (by omega) (Nat.succ_pos _)
    { padded with bp := by simp [bp], H := rfl } nofun rfl⟩

/-- Setting the next word to the schedule's. -/
theorem holdsWords_set {t : Nat} {x : Word} (ht : t < 64) (words : holdsWords msg b t s)
    (next : x = (blockSchedule msg b)[t]) {s' : State} (W : s'.W = s.W.set t x) : holdsWords msg b (t + 1) s' := by
  intro j hj lt
  rw [W, Vector.getElem_set]
  split
  · next h => subst h; exact next
  · exact words j hj (by omega)

/-- LOADW loads the next word of the block (41_schedule.md R140). -/
theorem leadsTo_loaded {i : BitVec 8} (upc : s.upc.toNat = 3 + i.toNat) (legal : legalLoadIndex i)
    (inside : b < blockCount msg.length) (hashed : Hashed msg b s) (words : holdsWords msg b i.toNat s) :
    LeadsTo msg s (132 * b + i.toNat + 4) := by
  have lenP := padMessage_length_eq_blocks msg
  have upc' := advance_upc_toNat (s := s) (by omega)
  refine ⟨.loadw i, _, .loadw legal upc, nofun, execLoadw_inside legal s ?_, .scheduling (t := i.toNat + 1)
    (upc'.trans (by omega)) (by omega) inside { hashed with }
    (holdsWords_set (by omega) words ?_ rfl) (by omega)⟩
  · rw [hashed.P, hashed.bp]; omega
  · have load : i.toNat < 16 := by omega
    rw [hashed.P, hashed.bp, ← blockOf_word _ _ load]
    exact (scheduleOf_getElem_load load).symm

/-- EXPW derives the next word (41_schedule.md R142). -/
theorem leadsTo_expanded {i : BitVec 8} (upc : s.upc.toNat = 3 + i.toNat) (legal : legalExpandIndex i)
    (inside : b < blockCount msg.length) (hashed : Hashed msg b s) (words : holdsWords msg b i.toNat s) :
    LeadsTo msg s (132 * b + i.toNat + 4) := by
  have upc' := advance_upc_toNat (s := s) (by omega)
  refine ⟨.expw i, _, .expw legal upc, nofun, execExpw_legal legal s, .scheduling (t := i.toNat + 1)
    (upc'.trans (by omega)) (by omega) inside { hashed with }
    (holdsWords_set (by omega) words ?_ rfl) (by omega)⟩
  exact (expandWord_congr legal words).trans (scheduleOf_getElem_expand legal).symm

/-- DIAGW leaves what the run works on. -/
theorem leadsTo_scheduled (upc : s.upc.toNat = 67) (inside : b < blockCount msg.length) (hashed : Hashed msg b s)
    (words : holdsWords msg b 64 s) : LeadsTo msg s (132 * b + 68) := by
  have at67 : s.upc = 67#8 := BitVec.eq_of_toNat_eq upc
  obtain ⟨t, ht⟩ := MicroOp.diagw.completes s
  refine ⟨.diagw, t, at67 ▸ .diagw, nofun, ht, ?_⟩
  rw [execDiagw_frame ht]
  exact .scheduled (by simp [at67]) inside { hashed with } (Vector.ext fun j hj => words j hj hj) rfl

/-- INITWV starts the rounds from H (42_compression.md R164). -/
theorem leadsTo_compressing (upc : s.upc = 68#8) (inside : b < blockCount msg.length) (hashed : Hashed msg b s)
    (words : s.W = blockSchedule msg b) : LeadsTo msg s (132 * b + 69) :=
  ⟨.initwv, _, upc ▸ .initwv, nofun, rfl, .compressing (i := 0) (by simp [upc]) (by omega) inside { hashed with } words
    rfl rfl⟩

/-- ROUND performs the next round (42_compression.md R166). -/
theorem leadsTo_round {i : BitVec 8} (upc : s.upc.toNat = 69 + i.toNat) (legal : legalRoundIndex i)
    (inside : b < blockCount msg.length) (hashed : Hashed msg b s) (words : s.W = blockSchedule msg b)
    (vars : s.wv = roundsUpTo (blockSchedule msg b) i.toNat (workVarsOf s.H)) :
    LeadsTo msg s (132 * b + i.toNat + 70) := by
  have upc' := advance_upc_toNat (s := s) (by omega)
  refine ⟨.round i, _, .round legal upc, nofun, execRound_legal legal s, .compressing (i := i.toNat + 1)
    (upc'.trans (by omega)) (by omega) inside { hashed with } words ?_ (by omega)⟩
  rw [advance_wv, advance_H, roundsUpTo_succ (by omega), ← vars]
  simp only [words]

/-- FFWD adds the block to the hash (42_compression.md R170, R172). -/
theorem leadsTo_compressed (upc : s.upc.toNat = 133) (inside : b < blockCount msg.length) (hashed : Hashed msg b s)
    (vars : s.wv = roundsUpTo (blockSchedule msg b) 64 (workVarsOf s.H)) : LeadsTo msg s (132 * b + 134) := by
  have at133 : s.upc = 133#8 := BitVec.eq_of_toNat_eq upc
  have nblk := hashed.nblk
  have bp := hashed.bp
  have small := s.nblk.isLt
  refine ⟨.ffwd, _, at133 ▸ .ffwd, nofun, rfl,
    .compressed (by simp [at133]) inside { hashed with bp := ?_, H := ?_ } rfl⟩
  · rw [advance_bp, BitVec.toNat_add_of_lt (by simp; omega), bp]; rfl
  · rw [advance_H, vars, hashed.H]; rfl

/-- LOOPBLK goes back while there are blocks, and on when there are none (44_control.md R231). -/
theorem leadsTo_next (upc : s.upc = 134#8) (inside : b < blockCount msg.length) (hashed : Hashed msg (b + 1) s) :
    LeadsTo msg s (132 * b + 135) := by
  refine ⟨.loopblk 3#8, _, upc ▸ .loopblk, nofun, execLoopblk_legal (by decide) s, ?_⟩
  have more : s.bp < s.nblk ↔ b + 1 < blockCount msg.length := by rw [BitVec.lt_def, hashed.bp, hashed.nblk]
  split
  · next h =>
    exact .scheduling (b := b + 1) (t := 0) rfl (by omega) (more.1 h) { hashed with } nofun (by omega)
  · next h =>
    have last : blockCount msg.length = b + 1 := by rw [more] at h; omega
    exact .finished (by simp [upc]) (by rw [digestWords_eq, last]; exact hashed.H) (by omega)

/-- FMT writes the text of the digest (43_output.md R190). -/
theorem leadsTo_formatted (upc : s.upc = 135#8) (H : s.H = digestWords msg) :
    LeadsTo msg s (132 * blockCount msg.length + 4) := by
  refine ⟨.fmt, _, upc ▸ .fmt, nofun, rfl, .formatted (by simp [upc]) H ⟨?_, fun k hk => ?_⟩ rfl⟩
  · have fits := textOf_length_le s.smode (digestWords msg)
    simp only [advance_outLen, advance_smode, H, BitVec.toNat_ofNat]
    omega
  · simp only [advance_smode] at hk
    simp only [advance_out, advance_smode, H]
    rw [Memory.read_writeList, if_pos (by omega), Nat.sub_zero]

/-- Every stage before the last leads to the next. -/
theorem RunStage.leadsTo (h : RunStage msg s n) (more : n < 132 * blockCount msg.length + 4) :
    LeadsTo msg s (n + 1) := by
  have byte : ∀ {m : Nat}, m ≤ 64 → ∃ i : BitVec 8, i.toNat = m :=
    fun {m} hm => ⟨BitVec.ofNat 8 m, Nat.mod_eq_of_lt (by omega)⟩
  cases h with
  | accepted upc message => exact leadsTo_padded upc message
  | padded upc padded bp => exact leadsTo_reported upc padded bp
  | reported upc padded bp => exact leadsTo_firstBlock upc padded bp
  | scheduling upc bound inside hashed words count =>
    obtain ⟨i, rfl⟩ := byte bound
    subst count
    rcases show i.toNat ≤ 15 ∨ (16 ≤ i.toNat ∧ i.toNat ≤ 63) ∨ i.toNat = 64 by omega with load | expand | all
    · exact leadsTo_loaded upc load inside hashed words
    · exact leadsTo_expanded upc expand inside hashed words
    · rw [all] at upc words ⊢
      exact leadsTo_scheduled upc inside hashed words
  | scheduled upc inside hashed words count => subst count; exact leadsTo_compressing upc inside hashed words
  | compressing upc bound inside hashed words vars count =>
    obtain ⟨i, rfl⟩ := byte bound
    subst count
    rcases show i.toNat ≤ 63 ∨ i.toNat = 64 by omega with round | all
    · exact leadsTo_round upc round inside hashed words vars
    · rw [all] at upc vars ⊢
      exact leadsTo_compressed upc inside hashed vars
  | compressed upc inside hashed count => subst count; exact leadsTo_next upc inside hashed
  | finished upc H count => subst count; exact leadsTo_formatted upc H
  | formatted upc H text count => omega

end Sys2Proof.Machine
end

section
/-! PROOFS. Runs under any interleaving (44_control.md R223, R228, R233): the host's steps keep the stage of a run, the
core's lead to the next, so the list of turns decides how far a run is and nothing else. -/

namespace Sys2Proof.Machine

open Sys2Proof.Claims

variable {s t : State} {msg : List Byte} {mode : DisplayMode} {k m n : Nat}

/-! ### A run in progress -/

/-- The fields that are no part of a run are the configuration, the reports, and the model's own. -/
theorem State.sameRun.eq_update (h : s.sameRun t) :
    t = { s with cmdErr := t.cmdErr, mode := t.mode, diag := t.diag, turns := t.turns, hostReads := t.hostReads,
                 draws := t.draws } := by
  cases t
  obtain ⟨rfl, rfl, rfl, rfl, rfl, rfl, rfl, rfl, rfl, rfl, rfl, rfl, rfl, rfl, rfl, rfl, rfl⟩ := h
  rfl

/-- `RunAt msg mode n s`: a run on `msg` in `mode` is in progress, and the core has made `n` of its steps. -/
structure RunAt (msg : List Byte) (mode : DisplayMode) (n : Nat) (s : State) : Prop where
  busy : s.busy = true
  smode : s.smode = mode
  stage : RunStage msg s n

/-- A run has left the digest of `msg` and its text in `mode` (44_control.md R230). -/
structure Completed (msg : List Byte) (mode : DisplayMode) (s : State) : Prop where
  busy : s.busy = false
  done : s.done = true
  H : s.H = digestWords msg
  text : s.showsText (textOf mode (digestWords msg))

theorem RunStage.of_sameRun (same : s.sameRun t) (h : RunStage msg s n) : RunStage msg t n := by
  rw [same.eq_update]
  cases h with
  | accepted upc message => exact .accepted upc message
  | padded upc padded bp => exact .padded upc { padded with } bp
  | reported upc padded bp => exact .reported upc { padded with } bp
  | scheduling upc bound inside hashed words count => exact .scheduling upc bound inside { hashed with } words count
  | scheduled upc inside hashed words count => exact .scheduled upc inside { hashed with } words count
  | compressing upc bound inside hashed words vars count =>
    exact .compressing upc bound inside { hashed with } words vars count
  | compressed upc inside hashed count => exact .compressed upc inside { hashed with } count
  | finished upc H count => exact .finished upc H count
  | formatted upc H text count => exact .formatted upc H text count

theorem RunAt.of_sameRun (same : s.sameRun t) (h : RunAt msg mode n s) : RunAt msg mode n t where
  busy := by rw [same.eq_update]; exact h.busy
  smode := by rw [same.eq_update]; exact h.smode
  stage := h.stage.of_sameRun same

theorem RunAt.popTurn (h : RunAt msg mode n s) : RunAt msg mode n (popTurn s) := h.of_sameRun s.sameRun_refl

/-- The state at acceptance (44_control.md R222). -/
theorem runAt_zero (busy : s.busy = true) (upc : s.upc = 0#8) (message : s.holdsMessage msg) :
    RunAt msg s.smode 0 s := ⟨busy, rfl, .accepted upc message⟩

/-- Before its last step a run is at END, with its results in place. -/
theorem RunStage.results (h : RunStage msg s n) (last : n = 132 * blockCount msg.length + 4) :
    s.upc = 136#8 ∧ s.H = digestWords msg ∧ s.showsText (textOf s.smode (digestWords msg)) := by
  cases h with
  | formatted upc H text count => exact ⟨upc, H, text⟩
  | _ => omega

/-! ### One step of a run -/

/-- The core's moves in one turn. -/
def Turn.coreSteps : Turn → Nat
  | .core => 1
  | .host _ => 0
  | .reset => 0

/-- No host transaction touches the pending turns. -/
theorem host_turns {x : BusTxn} {i : Instr} (hx : decodeBus x = .ok i) (h : exec i s = .next t) :
    t.turns = s.turns := by
  rcases host_effect hx h with same | write
  · rw [same]
  · cases write <;> rfl

theorem RunAt.coreStep (h : RunAt msg mode n s) (more : n < 132 * blockCount msg.length + 4)
    (turn : s.nextTurn = .core) :
    ∃ t, step s = .next t ∧ t.turns = s.turns.tail ∧ RunAt msg mode (n + 1) t := by
  obtain ⟨i, t, op, notEnd, ht, stage⟩ := h.popTurn.stage.leadsTo more
  have effect : CoreEffect (Machine.popTurn s) i t := op.effect rfl ht
  have busy : t.busy = s.busy := effect.busy_eq_or_endRun.resolve_right fun ended => notEnd ended.1
  exact ⟨t, (step_microOp turn h.busy op).trans ht, effect.turns_eq, busy.trans h.busy,
    effect.keepsHostSide.smode.trans h.smode, stage⟩

theorem RunAt.hostStep {x : BusTxn} (h : RunAt msg mode n s) (turn : s.nextTurn = .host x)
    (legal : (Turn.host x).legal) :
    ∃ t, step s = .next t ∧ t.turns = s.turns.tail ∧ RunAt msg mode n t := by
  obtain ⟨i, hi⟩ := legal
  obtain ⟨t, ht⟩ := host_completes hi (Machine.popTurn s)
  exact ⟨t, (step_host turn hi).trans ht, host_turns hi ht, h.popTurn.of_sameRun (sameRun_of_host hi ht h.busy)⟩

/-- A legal turn but reset takes a run as far as the core moves in it. -/
theorem RunAt.step (h : RunAt msg mode n s) (legal : s.nextTurn.legal) (noReset : s.nextTurn ≠ .reset)
    (more : n + s.nextTurn.coreSteps ≤ 132 * blockCount msg.length + 4) :
    ∃ t, Machine.step s = .next t ∧ t.turns = s.turns.tail ∧ RunAt msg mode (n + s.nextTurn.coreSteps) t := by
  cases turn : s.nextTurn with
  | core => rw [turn] at more; exact h.coreStep more turn
  | host x => exact h.hostStep turn (turn ▸ legal)
  | reset => exact absurd turn noReset

/-- The core's last step, END, completes the run (44_control.md R232). -/
theorem RunAt.lastStep (h : RunAt msg mode (132 * blockCount msg.length + 4) s) (turn : s.nextTurn = .core) :
    ∃ t, Machine.step s = .next t ∧ t.turns = s.turns.tail ∧ Completed msg mode t := by
  obtain ⟨upc, H, text⟩ := h.stage.results rfl
  have op : MicroOp s.upc .endRun := upc ▸ .endRun
  refine ⟨finishRun (Machine.popTurn s), step_microOp turn h.busy op, rfl, rfl, rfl, H, ?_⟩
  rw [← h.smode]
  exact text

/-! ### The turns of several steps -/

theorem core_run_of_step (h : step s = .next t) : Sys2Proof.core.run (k + 1) s = Sys2Proof.core.run k t := by
  simp only [Host.Core.run, show Sys2Proof.core.step s = .next t from h]

/-- The last of `k + 1` steps is taken from where `k` steps lead. -/
theorem core_run_last (h : Sys2Proof.core.run k s = .next t) : Sys2Proof.core.run (k + 1) s = step t := by
  induction k generalizing s with
  | zero =>
    obtain rfl : s = t := Host.Outcome.next.inj h
    cases hs : step s <;> simp only [Host.Core.run, show Sys2Proof.core.step s = _ from hs] <;> rfl
  | succ k ih =>
    cases hs : step s with
    | next u => rw [core_run_of_step hs] at h ⊢; exact ih h
    | fault r => simp [Host.Core.run, show Sys2Proof.core.step s = _ from hs] at h
    | refused r => simp [Host.Core.run, show Sys2Proof.core.step s = _ from hs] at h

theorem coreMoves_zero (h : s.coreMoves 0 m) : m = 0 := by
  obtain ⟨-, count⟩ := h
  simpa using count.symm

/-- The moves of the core in `k + 1` steps are those of the next turn and those of the `k` steps after it. -/
theorem coreMoves_succ (h : s.coreMoves (k + 1) m) (turns : t.turns = s.turns.tail) :
    s.nextTurn.legal ∧ s.nextTurn ≠ .reset ∧ ∃ m', t.coreMoves k m' ∧ m = s.nextTurn.coreSteps + m' := by
  obtain ⟨all, count⟩ := h
  rw [turnsTaken_succ, turnsTaken_congr (t := t) turns.symm] at all count
  obtain ⟨⟨legal, noReset⟩, rest⟩ := List.forall_mem_cons.1 all
  refine ⟨legal, noReset, _, ⟨rest, rfl⟩, ?_⟩
  rw [← count, List.count_cons, Nat.add_comm]
  cases s.nextTurn <;> rfl

/-- The last of the turns of `k + 1` steps is the one that is next after `k`. -/
theorem turnsTaken_last (s : State) (k : Nat) :
    s.turnsTaken (k + 1) = s.turnsTaken k ++ [(s.turns.drop k).headD .core] := by
  induction k generalizing s with
  | zero => simp [turnsTaken_succ, State.nextTurn]
  | succ k ih => rw [turnsTaken_succ, ih, turnsTaken_succ s k]; simp [List.drop_tail]

/-- Where the core makes the last of its moves in the last step, it makes the others in the steps before. -/
theorem coreMoves_last (h : s.coreMoves k (m + 1)) (last : (s.turnsTaken k).getLast? = some .core) :
    ∃ j, k = j + 1 ∧ s.coreMoves j m ∧ (s.turns.drop j).headD .core = .core := by
  obtain ⟨all, count⟩ := h
  cases k with
  | zero => simp at last
  | succ j =>
    rw [turnsTaken_last] at all count last
    have core : (s.turns.drop j).headD .core = .core := by simpa using last
    rw [core, List.count_append] at count
    exact ⟨j, rfl, ⟨fun x hx => all x (List.mem_append_left _ hx), by simpa using count⟩, core⟩

/-! ### A whole run -/

/-- Under every interleaving a run is as far as the core has moved. -/
theorem RunAt.run (h : RunAt msg mode n s) (moves : s.coreMoves k m)
    (more : n + m ≤ 132 * blockCount msg.length + 4) :
    ∃ t : State, Sys2Proof.core.run k s = .next t ∧ t.turns = s.turns.drop k ∧ RunAt msg mode (n + m) t := by
  induction k generalizing s n m with
  | zero =>
    obtain rfl := coreMoves_zero moves
    exact ⟨s, rfl, rfl, h⟩
  | succ k ih =>
    obtain ⟨legal, noReset, m', -, rfl⟩ := coreMoves_succ (t := Machine.popTurn s) moves rfl
    obtain ⟨u, hu, turns, hrun⟩ := h.step legal noReset (by omega)
    obtain ⟨-, -, m'', moves', count⟩ := coreMoves_succ moves turns
    obtain rfl : m' = m'' := by omega
    obtain ⟨t, ht, dropped, hend⟩ := ih hrun moves' (by omega)
    rw [← core_run_of_step hu] at ht
    refine ⟨t, ht, ?_, Nat.add_assoc .. ▸ hend⟩
    rw [dropped, turns, List.drop_tail]

/-- Under every interleaving the core's step number 132·NBLK + 5 completes the run. -/
theorem run_completes (busy : s.busy = true) (upc : s.upc = 0#8) (message : s.holdsMessage msg)
    (moves : s.coreMoves k (132 * blockCount msg.length + 4)) (last : (s.turns.drop k).headD .core = .core) :
    ∃ t : State, Sys2Proof.core.run (k + 1) s = .next t ∧ t.turns = s.turns.drop (k + 1) ∧ Completed msg s.smode t := by
  obtain ⟨u, hu, turns, hrun⟩ := (runAt_zero busy upc message).run moves (by omega)
  rw [Nat.zero_add] at hrun
  obtain ⟨t, ht, popped, completed⟩ := hrun.lastStep (by rw [State.nextTurn, turns, last])
  exact ⟨t, (core_run_last hu).trans ht, by rw [popped, turns, List.tail_drop], completed⟩

end Sys2Proof.Machine

namespace Sys2Proof.Proofs

open Sys2Proof Sys2Proof.Machine Sys2Proof.Claims

/-- Settles O58: before its last step every stage of a run has BUSY = 1. -/
theorem runTakesExactlyItsSteps : Obligations.RunTakesExactlyItsSteps := by
  intro s msg k n busy upc message moves more
  obtain ⟨t, ht, turns, hrun⟩ := (runAt_zero busy upc message).run moves (by omega)
  exact ⟨t, ht, turns, hrun.busy⟩

/-- Settles O59: the turns before the last are those of `ts`. -/
theorem runUnderAnyInterleaving : Obligations.RunUnderAnyInterleaving := by
  intro s msg ts rest busy upc message legal count turns
  have taken : s.turnsTaken ts.length = ts := by simp [State.turnsTaken, turns]
  have moves : s.coreMoves ts.length (132 * blockCount msg.length + 4) := by
    rw [State.coreMoves, taken]
    exact ⟨legal, count⟩
  obtain ⟨t, ht, dropped, completed⟩ := run_completes busy upc message moves (by simp [turns])
  refine ⟨t, ht, ?_, completed.busy, completed.done, completed.H, completed.text⟩
  simp [dropped, turns]

/-- Settles O60: both runs complete, and what a completed run leaves depends on the message and the mode only. -/
theorem runsAreDeterministic : Obligations.RunsAreDeterministic := by
  rintro s t msg j k n busyS upcS messageS busyT upcT messageT mode rfl movesS lastS movesT lastT
  obtain ⟨j, rfl, movesS, coreS⟩ := coreMoves_last movesS lastS
  obtain ⟨k, rfl, movesT, coreT⟩ := coreMoves_last movesT lastT
  obtain ⟨s', hs, -, doneS⟩ := run_completes busyS upcS messageS movesS coreS
  obtain ⟨t', ht, -, doneT⟩ := run_completes busyT upcT messageT movesT coreT
  rw [← mode] at doneT
  obtain ⟨lenS, textS⟩ := doneS.text
  obtain ⟨lenT, textT⟩ := doneT.text
  refine ⟨s', t', hs, ht, doneS.done, doneT.done, doneS.H.trans doneT.H.symm,
    BitVec.eq_of_toNat_eq (lenS.trans lenT.symm), fun i hi => ?_⟩
  rw [lenS] at hi
  exact (textS i hi).trans (textT i hi).symm

end Sys2Proof.Proofs
end

section
/-! PROOFS. The decoder and the encoder are inverse (30_encoding.md R90 to R94), the decoder is R93's opcode map, and
`exec` refuses exactly the operands outside R92. -/

namespace Sys2Proof

/-! ### Decoding an encoding -/

theorem decodeCommand_setmode (m : BitVec 8) : decodeCommand (0x02#8 ++ m) = .ok (.setmode m) := by
  simp [decodeCommand, withOperand_eq_ok, Instr.wf]

theorem decodeCommand_loopblk {tgt : BitVec 8} (h : legalTarget tgt) :
    decodeCommand (0x40#8 ++ tgt) = .ok (.loopblk tgt) := by
  simp [decodeCommand, withOperand_eq_ok, Instr.wf, h]

/-- A byte travels in the low 8 bits of the value of a transaction. -/
theorem decodeBus_wr8 (off : BitVec 32) (v : BitVec 8) :
    decodeBus ⟨.write, .w8, off, some (v.setWidth 32)⟩ = .ok (.wr8 off v) := by
  have fits : (v.setWidth 32).toNat < 256 := by rw [BitVec.toNat_setWidth_of_le (by decide)]; exact v.isLt
  have back : (v.setWidth 32).setWidth 8 = v := by rw [BitVec.setWidth_setWidth_of_le v (by decide), BitVec.setWidth_eq]
  simp only [decodeBus, if_pos fits, back]

theorem decode_encode {i : Instr} (h : i.wf = true) : decode (encode i) = .ok i := by
  cases i with
  | setmode m => exact decodeCommand_setmode m
  | loadw t => exact Machine.decodeCommand_loadw (of_decide_eq_true h)
  | expw t => exact Machine.decodeCommand_expw (of_decide_eq_true h)
  | round t => exact Machine.decodeCommand_round (of_decide_eq_true h)
  | loopblk tgt => exact decodeCommand_loopblk (of_decide_eq_true h)
  | wr8 off v => exact decodeBus_wr8 off v
  | _ => rfl

/-! ### Encoding what was decoded -/

/-- The decoder checks every operand that R92 restricts. -/
theorem wf_of_decodeCommand {w : CmdWord} {i : Instr} (h : decodeCommand w = .ok i) : i.wf = true := by
  unfold decodeCommand at h
  split at h
  case h_3 | h_6 | h_7 | h_10 | h_12 =>
    obtain ⟨wf, rfl⟩ := withOperand_eq_ok.1 h
    exact wf
  case h_17 => split at h <;> cases h
  all_goals
    obtain ⟨-, rfl⟩ := withoutOperand_eq_ok.1 h
    rfl

/-- A transaction that decodes is the encoding of what it decodes to (30_encoding.md R91); an 8-bit write decodes only
if its value fits, so the byte is the whole value. -/
theorem encode_of_decodeBus {x : BusTxn} {i : Instr} (h : decodeBus x = .ok i) : encode i = .bus x := by
  rcases decodeBus_cases h with ⟨off, rfl, rfl⟩ | ⟨off, rfl, rfl⟩ | ⟨off, v, rfl, rfl⟩ | ⟨off, v, rfl, rfl⟩
  · rfl
  · rfl
  · rfl
  · have fits : v.toNat < 256 := by
      by_contra wide
      simp [decodeBus, wide] at h
    have whole : (v.setWidth 8).setWidth 32 = v := BitVec.eq_of_toNat_eq (by simp only [BitVec.toNat_setWidth]; omega)
    simp only [encode, whole]

/-- The four transactions restrict no operand. -/
theorem wf_of_decodeBus {x : BusTxn} {i : Instr} (h : decodeBus x = .ok i) : i.wf = true := by
  rcases decodeBus_cases h with ⟨_, -, rfl⟩ | ⟨_, -, rfl⟩ | ⟨_, _, -, rfl⟩ | ⟨_, _, -, rfl⟩ <;> rfl

/-- What the decoder answers, said once: the well-formed instruction that the form encodes, and no other. -/
theorem decode_eq_ok_iff {e : Encoded} {i : Instr} : decode e = .ok i ↔ i.wf = true ∧ encode i = e := by
  refine ⟨fun h => ?_, fun ⟨wf, enc⟩ => enc ▸ decode_encode wf⟩
  cases e with
  | command w => exact ⟨wf_of_decodeCommand h, encode_of_decodeCommand h⟩
  | bus x => exact ⟨wf_of_decodeBus h, encode_of_decodeBus h⟩

end Sys2Proof

namespace Sys2Proof.Claims

/-! ### The rows of the opcode map -/

/-- A row with an operand: the mask 0xFF00 keeps the UNIT:FUNC byte `u`, and `p` is what R92 asks of IMM. -/
theorem operandRow_iff (u imm : BitVec 8) (w : CmdWord) (p : Nat → Prop) :
    (p imm.toNat ∧ u ++ imm = w) ↔
      w &&& 0xFF00#16 = u ++ 0#8 ∧ p (w.toNat % 256) ∧ imm = w.setWidth 8 := by
  have immNat : w.toNat % 256 = (w.setWidth 8).toNat := (BitVec.toNat_setWidth 8 w).symm
  have masked (x y : BitVec 8) : (x ++ y) &&& 0xFF00#16 = x ++ 0#8 := by
    rw [show 0xFF00#16 = BitVec.allOnes 8 ++ 0#8 from rfl, BitVec.and_append, BitVec.and_allOnes, BitVec.and_zero]
  rw [immNat]
  constructor
  · rintro ⟨legal, rfl⟩
    rw [BitVec.setWidth_append_eq_right]
    exact ⟨masked u imm, legal, rfl⟩
  · rintro ⟨row, legal, rfl⟩
    obtain ⟨x, y, rfl⟩ : ∃ x y : BitVec 8, w = x ++ y := ⟨_, _, cmdWord_eq_fields w⟩
    rw [masked, BitVec.append_left_inj] at row
    exact ⟨legal, by rw [row, BitVec.setWidth_append_eq_right]⟩

/-- A row without operand: the mask keeps the whole word, whose IMM is 0. -/
theorem plainRow_iff {m w : CmdWord} (low : m.toNat % 256 = 0) :
    m = w ↔ w &&& 0xFFFF#16 = m ∧ w.toNat % 256 = 0 := by
  have whole : w &&& 0xFFFF#16 = w := BitVec.and_allOnes
  rw [whole]
  constructor
  · rintro rfl; exact ⟨rfl, low⟩
  · rintro ⟨rfl, -⟩; rfl

/-- R93's map and the encoder, instruction by instruction: of the sixteen rows at most one answers a given instruction,
and it holds the words that encode the instruction with a legal operand. -/
theorem wf_and_encode_iff_row (w : CmdWord) (i : Instr) :
    (i.wf = true ∧ encode i = .command w) ↔
      ∃ r ∈ opcodeMap, w &&& r.mask = r.matchBits ∧ r.lo ≤ w.toNat % 256 ∧ w.toNat % 256 ≤ r.hi ∧
        i = r.instr (w.setWidth 8) := by
  simp only [opcodeMap, List.cons_append, List.nil_append, List.exists_mem_cons_iff, List.not_mem_nil, false_and,
    exists_false, or_false]
  cases i with
  | setmode m =>
    have every : m.toNat ≤ 255 := Nat.le_of_lt_succ m.isLt
    simpa [Instr.wf, encode, commandWord, every] using operandRow_iff 0x02#8 m w (· ≤ 255)
  | loadw t =>
    simpa [Instr.wf, encode, commandWord] using operandRow_iff 0x20#8 t w (· ≤ 15)
  | expw t =>
    simpa [Instr.wf, encode, commandWord, and_assoc] using operandRow_iff 0x21#8 t w fun n => 16 ≤ n ∧ n ≤ 63
  | round t =>
    simpa [Instr.wf, encode, commandWord] using operandRow_iff 0x32#8 t w (· ≤ 63)
  | loopblk tgt =>
    simpa [Instr.wf, encode, commandWord] using operandRow_iff 0x40#8 tgt w (· ≤ 136)
  | _ => simp [Instr.wf, encode, commandWord, plainRow_iff]

end Sys2Proof.Claims

namespace Sys2Proof.Machine

/-! ### What `exec` refuses -/

/-- A well-formed instruction completes in every state (60_exceptions.md R260). -/
theorem exec_completes_of_wf {i : Instr} (h : i.wf = true) (s : State) : ∃ t, exec i s = .next t := by
  cases i with
  | loadw t => exact ⟨_, execLoadw_legal (of_decide_eq_true h) s⟩
  | expw t => exact ⟨_, execExpw_legal (of_decide_eq_true h) s⟩
  | round t => exact ⟨_, execRound_legal (of_decide_eq_true h) s⟩
  | loopblk tgt => exact ⟨_, execLoopblk_legal (of_decide_eq_true h) s⟩
  | wr32 off v => exact (execWr32_cases off v s).imp fun _ => And.left
  | _ => exact ⟨_, rfl⟩

/-- The four checks of `exec` are those of `Instr.wf` (log 17). -/
theorem exec_refused_of_not_wf {i : Instr} (h : i.wf = false) (s : State) :
    exec i s = .refused .illegalOperand := by
  cases i with
  | loadw t => exact dif_neg (of_decide_eq_false h)
  | expw t => exact dif_neg (of_decide_eq_false h)
  | round t => exact dif_neg (of_decide_eq_false h)
  | loopblk tgt => exact if_neg (of_decide_eq_false h)
  | _ => cases h

end Sys2Proof.Machine

namespace Sys2Proof.Proofs

open Sys2Proof Sys2Proof.Machine Sys2Proof.Claims

/-- Settles O1: the UNIT:FUNC byte of an encoding selects the instruction's own row, and its operand passes. -/
theorem decodeOfEncodeIsTheInstruction : Obligations.DecodeOfEncodeIsTheInstruction :=
  fun _ => decode_encode

/-- Settles O2. -/
theorem encodeOfDecodeIsTheForm : Obligations.EncodeOfDecodeIsTheForm :=
  fun _ _ => decode_eq_ok_iff.1

/-- Settles O3: a word decodes to the well-formed instruction it encodes, and those are the words of R93's rows. -/
theorem decoderFollowsTheOpcodeMap : Obligations.DecoderFollowsTheOpcodeMap :=
  fun w i => (decode_eq_ok_iff (e := .command w)).trans (wf_and_encode_iff_row w i)

/-- Settles O15. -/
theorem illegalOperandsAreRefused : Obligations.IllegalOperandsAreRefused := by
  intro i s
  cases wf : i.wf with
  | false => simp [exec_refused_of_not_wf wf s]
  | true =>
    obtain ⟨t, ht⟩ := exec_completes_of_wf wf s
    simp [ht]

/-- Settles O4: the decoder runs on each of the twelve words. -/
theorem writtenOutWordsDecode : Obligations.WrittenOutWordsDecode :=
  ⟨rfl, rfl, rfl, rfl, rfl, rfl, rfl, rfl, rfl, rfl, rfl, rfl⟩

end Sys2Proof.Proofs
end

section
/-! PROOFS. The padding stage (40_padding.md R120 to R126): where the message, the 0x80 byte and the length field stand
in what PAD leaves in P, and how many blocks that is. -/

namespace Sys2Proof.Claims

open Sys2Proof.Machine

/-! ### The length field -/

theorem extractByte_eq_ofNat (x : BitVec 64) (j : Nat) :
    x.extractLsb' (8 * j) 8 = BitVec.ofNat 8 (x.toNat / 256 ^ j) := by
  rw [BitVec.extractLsb', Nat.shiftRight_eq_div_pow, Nat.pow_mul]

/-- BE64 by shifts is BE64 by division (00_scope.md R10). -/
theorem be64_eq_bytesOf64 (x : BitVec 64) : be64 x = bytesOf64 x.toNat :=
  calc be64 x
    _ = (List.range 8).map fun k => x.extractLsb' (8 * (7 - k)) 8 := rfl
    _ = bytesOf64 x.toNat := List.map_congr_left fun _ _ => extractByte_eq_ofNat x _

theorem be64_bitLength (len : Nat) : be64 (bitLength len) = bytesOf64 (8 * len % 2 ^ 64) := by
  rw [be64_eq_bytesOf64, bitLength_toNat]

/-! ### The parts of a padded buffer -/

theorem padMessage_getElem?_message {msg : List Byte} {k : Nat} (h : k < msg.length) :
    (padMessage msg)[k]? = msg[k]? := by
  simp only [padMessage, List.append_assoc]
  exact List.getElem?_append_left h

theorem padMessage_getElem?_marker (msg : List Byte) : (padMessage msg)[msg.length]? = some 0x80#8 := by
  simp [padMessage]

theorem padMessage_drop_lengthField (msg : List Byte) :
    (padMessage msg).drop ((padMessage msg).length - 8) = be64 (bitLength msg.length) := by
  rw [padMessage]
  exact List.drop_left' (by simp; omega)

/-! ### PAD in every state -/

/-- NBLK is computed on words (R123); below 2^64 that is the quotient of the numbers. -/
theorem ofNat_div_64 {n : Nat} (h : n < 2 ^ 64) : BitVec.ofNat 64 n / 64#64 = BitVec.ofNat 64 (n / 64) := by
  apply BitVec.eq_of_toNat_eq
  have quotient : n / 64 < 2 ^ 64 := by omega
  rw [BitVec.toNat_udiv, BitVec.toNat_ofNat, BitVec.toNat_ofNat (n / 64), Nat.mod_eq_of_lt h, Nat.mod_eq_of_lt quotient]
  rfl

/-- Where M has unwritten bytes PAD pads some message that agrees with the written ones (R120; logs 3 and 7). -/
theorem execPad_pads {s t : State} (h : execPad s = .next t) :
    ∃ msg, msg.length = s.msgLen.toNat ∧ t.P = padMessage msg ∧
      ∀ (k : Nat) (b : Byte), k < s.msgLen.toNat → s.M.read k = some b → msg[k]? = some b := by
  refine ⟨(fillDraws s.draws (memReadM s 0 s.msgLen.toNat)).1, by simp, ?_, fun k b hk written => ?_⟩
  · unfold execPad at h
    cases h
    rfl
  · apply fillDraws_getElem?
    rw [memReadM_getElem? _ _ _ _ hk, Nat.zero_add, written]

/-- PLEN and NBLK through the number of blocks (R123). -/
theorem execPad_blocks {s t : State} (h : execPad s = .next t) :
    t.plen.toNat = 64 * blockCount s.msgLen.toNat ∧ t.nblk.toNat = blockCount s.msgLen.toNat := by
  obtain ⟨-, plen, nblk⟩ := execPad_lengths h
  obtain ⟨msg, len, hP, -⟩ := execPad_pads h
  have whole : t.plen.toNat = 64 * blockCount s.msgLen.toNat := by
    rw [plen, hP, padMessage_length_eq_blocks, len]
  exact ⟨whole, by rw [nblk, whole, Nat.mul_div_cancel_left _ (by decide)]⟩

end Sys2Proof.Claims

namespace Sys2Proof.Proofs

open Sys2Proof Sys2Proof.Machine Sys2Proof.Claims

/-- Settles O9: a written message draws nothing, and R122's property determines z below 64. -/
theorem padBuildsThePaddedBuffer : Obligations.PadBuildsThePaddedBuffer := by
  refine ⟨⟨rfl, rfl, rfl⟩, fun s msg z ⟨len, written⟩ hz pads => ?_⟩
  obtain rfl : zeroCount msg.length = z := zeroCount_unique hz pads
  have small : msg.length + 1 + zeroCount msg.length + 8 < 2 ^ 64 := by
    have := s.msgLen.isLt
    omega
  calc exec .pad s
    _ = .next (advance { s with
          P := padMessage msg
          plen := BitVec.ofNat 64 (padMessage msg).length
          nblk := BitVec.ofNat 64 (padMessage msg).length / 64#64
          bp := 0#64 }) := execPad_written len written
    _ = _ := by rw [padMessage_length, ofNat_div_64 small, ← be64_bitLength]; rfl

/-- Settles O10: PAD leaves a padded message, whose parts are known. -/
theorem padCompletesWithThePaddingInvariant : Obligations.PadCompletesWithThePaddingInvariant := by
  intro s
  obtain ⟨t, ht⟩ := exec_completes_of_wf (i := .pad) rfl s
  obtain ⟨-, plen, -⟩ := execPad_lengths ht
  obtain ⟨blocks, -⟩ := execPad_blocks ht
  obtain ⟨msg, len, hP, written⟩ := execPad_pads ht
  have positive : 1 ≤ blockCount s.msgLen.toNat := Nat.le_add_left ..
  refine ⟨t, ht, execPad_frame ht, plen.symm, by omega, by omega, fun k b hk read => ?_, ?_, ?_⟩
  · rw [hP, padMessage_getElem?_message (len ▸ hk), written k b hk read]
  · rw [hP, ← len, padMessage_getElem?_marker]
  · rw [plen, hP, padMessage_drop_lengthField, be64_bitLength, len]

/-- Settles O11: PLEN is NBLK whole blocks, and the rest is the arithmetic of `blockCount`. -/
theorem padBlockCount : Obligations.PadBlockCount := by
  intro s
  obtain ⟨t, ht⟩ := exec_completes_of_wf (i := .pad) rfl s
  obtain ⟨plen, nblk⟩ := execPad_blocks ht
  rw [blockCount] at plen nblk
  exact ⟨t, ht, by omega, by omega, by omega, nblk, fun _ => by omega, fun _ => by omega⟩

/-- Settles O12: below 64 the defining property leaves one number, the remainder of every other. -/
theorem zeroCountIsLeast : Obligations.ZeroCountIsLeast := by
  intro len
  have spec := zeroCount_spec len
  have bound := zeroCount_lt len
  refine ⟨spec, by omega, fun z pads => ?_, by omega, by omega⟩
  calc zeroCount len
    _ = z % 64 := by omega
    _ ≤ z := Nat.mod_le ..

end Sys2Proof.Proofs
end

section
/-! PROOFS. The message schedule expander (41_schedule.md R140, R142, R145): what LOADW and EXPW write, and that the 64
operations of a block leave its schedule in W. -/

namespace Sys2Proof.Claims

open Sys2Proof.Machine

/-- A row of 30_encoding.md R93 with an operand: IMM stands in the low byte, which the row's own word leaves 0. -/
theorem row_or_operand (u imm : BitVec 8) : (u ++ 0#8) ||| imm.setWidth 16 = u ++ imm := by
  have wide : imm.setWidth 16 = 0#8 ++ imm := BitVec.setWidth_eq_append (by decide)
  rw [wide, BitVec.or_append, BitVec.or_zero, BitVec.zero_or]

/-- A well-formed instruction with an operand has the word of its row, with the operand in it. -/
theorem encodedAs_row_or_operand {i : Instr} {u imm : BitVec 8} (wf : i.wf = true)
    (enc : encode i = .command (u ++ imm)) : encodedAs i ((u ++ 0#8) ||| imm.setWidth 16) i.issuer := by
  rw [row_or_operand]
  exact ⟨(decode_eq_ok_iff (e := .command _)).2 ⟨wf, enc⟩, enc, rfl⟩

end Sys2Proof.Claims

namespace Sys2Proof.Machine

/-! ### One word -/

/-- Four bytes of a buffer, read one by one. -/
theorem take_four_drop {P : List Byte} {a : Nat} {b0 b1 b2 b3 : Byte} (h0 : P[a]? = some b0)
    (h1 : P[a + 1]? = some b1) (h2 : P[a + 2]? = some b2) (h3 : P[a + 3]? = some b3) :
    (P.drop a).take 4 = [b0, b1, b2, b3] := by
  simp [List.take_add_one, h0, h1, h2, h3]

/-- The derived word as a number: one reduction mod 2^32 of the whole sum (41_schedule.md R142). -/
theorem expandWord_toNat (w : Vector Word 64) {t : Nat} (h : 16 ≤ t ∧ t ≤ 63) :
    (expandWord w t h).toNat =
      (w[t - 16].toNat + (sigma0 w[t - 15]).toNat + w[t - 7].toNat + (sigma1 w[t - 2]).toNat) % 2 ^ 32 := by
  simp only [expandWord, BitVec.toNat_add, Nat.mod_add_mod]

/-! ### Instructions one after the other -/

theorem execAll_append {is js : List Instr} {s t : State} (h : execAll is s = .next t) :
    execAll (is ++ js) s = execAll js t := by
  induction is generalizing s with
  | nil => cases h; rfl
  | cons i is ih =>
    rw [List.cons_append, execAll]
    rw [execAll] at h
    cases hi : exec i s with
    | next u => rw [hi] at h; exact ih h
    | fault r => rw [hi] at h; cases h
    | refused r => rw [hi] at h; cases h

/-- A numbered list of instructions, through the states that stand before and after each. -/
theorem execAll_range {op : Nat → Instr} {st : Nat → State} {n : Nat}
    (each : ∀ k, k < n → exec (op k) (st k) = .next (st (k + 1))) :
    execAll ((List.range n).map op) (st 0) = .next (st n) := by
  induction n with
  | zero => rfl
  | succ n ih =>
    have first := ih fun k hk => each k (by omega)
    rw [List.range_succ, List.map_append, execAll_append first, List.map_singleton, execAll, each n n.lt_succ_self]
    rfl

/-! ### The schedule as it grows -/

variable {s : State} {n : Nat}

/-- `w` with its first `n` words replaced by those of `v`. Irreducible, for comparing two states must not compute a
schedule; its rules are the four below. -/
@[irreducible] def overwrite (v : Vector Word 64) (n : Nat) (w : Vector Word 64) : Vector Word 64 :=
  Vector.ofFn fun j => if j.val < n then v[j] else w[j]

theorem overwrite_getElem {v w : Vector Word 64} {j : Nat} (hj : j < 64) :
    (overwrite v n w)[j] = if j < n then v[j] else w[j] := by
  simp [overwrite]

theorem overwrite_zero (v w : Vector Word 64) : overwrite v 0 w = w :=
  Vector.ext fun j hj => by rw [overwrite_getElem hj, if_neg (Nat.not_lt_zero j)]

theorem overwrite_all (v w : Vector Word 64) : overwrite v 64 w = v :=
  Vector.ext fun j hj => by rw [overwrite_getElem hj, if_pos hj]

/-- Setting the next word replaces one word more. -/
theorem overwrite_set {v w : Vector Word 64} (hn : n < 64) : (overwrite v n w).set n v[n] = overwrite v (n + 1) w := by
  refine Vector.ext fun j hj => ?_
  rw [Vector.getElem_set, overwrite_getElem hj, overwrite_getElem hj]
  rcases lt_trichotomy j n with lt | rfl | gt
  · rw [if_neg (by omega), if_pos lt, if_pos (by omega)]
  · rw [if_pos rfl, if_pos (by omega)]
  · rw [if_neg (by omega), if_neg (by omega), if_neg (by omega)]

/-- The schedule of the current block (41_schedule.md R145). -/
def State.schedule (s : State) : Vector Word 64 := scheduleOf (blockOf s.P s.bp.toNat)

/-- `s` after the operations of the words 0 .. n-1: those words of W are the schedule's, the others as in `s`. -/
def State.scheduledTo (s : State) (n : Nat) : State :=
  { s with W := overwrite s.schedule n s.W, upc := s.upc + BitVec.ofNat 8 n }

theorem scheduledTo_zero (s : State) : s.scheduledTo 0 = s := by
  rw [State.scheduledTo, overwrite_zero, BitVec.add_zero]

theorem advance_setWord_scheduledTo {x : Word} (hn : n < 64) (next : x = s.schedule[n]) :
    advance { s.scheduledTo n with W := (s.scheduledTo n).W.set n x } = s.scheduledTo (n + 1) := by
  rw [next]
  simp only [State.scheduledTo, advance, overwrite_set, BitVec.ofNat_add, BitVec.add_assoc]

/-- LOADW reads the block, which W is no part of. -/
theorem exec_loadw_scheduledTo {t : BitVec 8} (inside : 64 * s.bp.toNat + 64 ≤ s.P.length)
    (legal : legalLoadIndex t) :
    exec (.loadw t) (s.scheduledTo t.toNat) = .next (s.scheduledTo (t.toNat + 1)) := by
  have load : t.toNat < 16 := Nat.lt_succ_of_le legal
  have word : be32 ((s.P.drop (64 * s.bp.toNat + 4 * t.toNat)).take 4) = s.schedule[t.toNat] := by
    rw [← blockOf_word _ _ load]
    exact (scheduleOf_getElem_load load).symm
  have bytes : 64 * s.bp.toNat + 4 * t.toNat + 4 ≤ s.P.length := by omega
  calc exec (.loadw t) (s.scheduledTo t.toNat)
    _ = _ := execLoadw_inside legal (s.scheduledTo t.toNat) bytes
    _ = .next (s.scheduledTo (t.toNat + 1)) := congrArg _ (advance_setWord_scheduledTo (by omega) word)

/-- EXPW reads only words that stand already, so what W held before does not matter. -/
theorem exec_expw_scheduledTo {t : BitVec 8} (legal : legalExpandIndex t) :
    exec (.expw t) (s.scheduledTo t.toNat) = .next (s.scheduledTo (t.toNat + 1)) := by
  have word : expandWord (s.scheduledTo t.toNat).W t.toNat legal = s.schedule[t.toNat] :=
    calc expandWord (s.scheduledTo t.toNat).W t.toNat legal
      _ = expandWord s.schedule t.toNat legal :=
        expandWord_congr legal fun j hj old => (overwrite_getElem hj).trans (if_pos old)
      _ = s.schedule[t.toNat] := (scheduleOf_getElem_expand legal).symm
  calc exec (.expw t) (s.scheduledTo t.toNat)
    _ = _ := execExpw_legal legal (s.scheduledTo t.toNat)
    _ = .next (s.scheduledTo (t.toNat + 1)) := congrArg _ (advance_setWord_scheduledTo (by omega) word)

/-- LOADW 0..15 load the block. -/
theorem execAll_loadw (inside : 64 * s.bp.toNat + 64 ≤ s.P.length) :
    execAll ((List.range 16).map fun t => .loadw (BitVec.ofNat 8 t)) s = .next (s.scheduledTo 16) := by
  have each (t : Nat) (ht : t < 16) :
      exec (.loadw (BitVec.ofNat 8 t)) (s.scheduledTo t) = .next (s.scheduledTo (t + 1)) := by
    have operand : (BitVec.ofNat 8 t).toNat = t := Nat.mod_eq_of_lt (by omega)
    have legal : legalLoadIndex (BitVec.ofNat 8 t) := by omega
    simpa only [operand] using exec_loadw_scheduledTo inside legal
  simpa only [scheduledTo_zero] using execAll_range each

/-- EXPW 16..63 derive the other words. -/
theorem execAll_expw (s : State) :
    execAll ((List.range 48).map fun t => .expw (BitVec.ofNat 8 (16 + t))) (s.scheduledTo 16) =
      .next (s.scheduledTo 64) := by
  refine execAll_range (st := fun t => s.scheduledTo (16 + t)) fun t ht => ?_
  have operand : (BitVec.ofNat 8 (16 + t)).toNat = 16 + t := Nat.mod_eq_of_lt (by omega)
  have legal : legalExpandIndex (BitVec.ofNat 8 (16 + t)) := by omega
  simpa only [operand, Nat.add_assoc] using exec_expw_scheduledTo legal

end Sys2Proof.Machine

namespace Sys2Proof.Proofs

open Sys2Proof.Machine Sys2Proof.Claims

/-- Settles O13: the four bytes lie inside P, so LOADW draws nothing and reads just them. -/
theorem loadwLoadsTheBigEndianWord : Obligations.LoadwLoadsTheBigEndianWord := by
  refine fun s t ht => ⟨encodedAs_row_or_operand (u := 0x20#8) (decide_eq_true ht) rfl,
    fun b0 b1 b2 b3 h0 h1 h2 h3 => ?_⟩
  have inside := (List.getElem?_eq_some_iff.1 h3).1
  refine ⟨_, execLoadw_inside ht s inside, rfl, ?_, fun j hj ne => Vector.getElem_set_ne (by omega) hj ne.symm⟩
  rw [advance_W, Vector.getElem_set_self, take_four_drop h0 h1 h2 h3, be32_toNat]

/-- Settles O14. -/
theorem expwDerivesTheWord : Obligations.ExpwDerivesTheWord := by
  intro s t h16 h63
  have legal : legalExpandIndex t := ⟨h16, h63⟩
  refine ⟨encodedAs_row_or_operand (u := 0x21#8) (decide_eq_true legal) rfl, _, execExpw_legal legal s, rfl, ?_,
    fun j hj ne => Vector.getElem_set_ne (by omega) hj ne.symm⟩
  rw [advance_W, Vector.getElem_set_self, expandWord_toNat]

/-- Settles O16: word by word W becomes the schedule of the block, which all 64 operations leave as it is. -/
theorem scheduleOfTheCurrentBlock : Obligations.ScheduleOfTheCurrentBlock := by
  intro s inside
  rw [execAll_append (execAll_loadw inside), execAll_expw, State.scheduledTo, overwrite_all, State.schedule]

end Sys2Proof.Proofs
end

section
/-! PROOFS. The compression round engine (42_compression.md R162 to R172): what LDIV, INITWV, ROUND and FFWD write lane
by lane, and that the 66 operations of a block leave Compress(H, W). -/

namespace Sys2Proof.Machine

open Sys2Proof.Claims

variable {s : State} {n : Nat}

/-! ### One operation -/

/-- The working variables loaded from H are its lanes in order (42_compression.md R164). -/
theorem lanes_workVarsOf (H : Vector Word 8) (j : Fin 8) : (lanes (workVarsOf H))[j.val]? = some H[j] := by
  fin_cases j <;> rfl

/-- The feed-forward adds to each lane of H the working variable of that lane (42_compression.md R170). -/
theorem feedForward_getElem (H : Vector Word 8) {u : WorkVars} {j : Fin 8} {v : Word}
    (lane : (lanes u)[j.val]? = some v) : (feedForward H u)[j] = H[j] + v := by
  fin_cases j <;> cases lane <;> rfl

/-! ### The rounds one after the other -/

theorem execAll_cons {i : Instr} {is : List Instr} {t : State} (h : exec i s = .next t) :
    execAll (i :: is) s = execAll is t := by
  rw [execAll, h]

/-- `s` after INITWV and the rounds 0 .. n-1. -/
def State.roundedTo (s : State) (n : Nat) : State :=
  { s with wv := roundsUpTo s.W n (workVarsOf s.H), upc := s.upc + BitVec.ofNat 8 (1 + n) }

theorem exec_initwv (s : State) : exec .initwv s = .next (s.roundedTo 0) := rfl

/-- ROUND reads W and K, and of the state only the working variables before it. -/
theorem exec_round_roundedTo (s : State) {i : BitVec 8} (legal : legalRoundIndex i) :
    exec (.round i) (s.roundedTo i.toNat) = .next (s.roundedTo (i.toNat + 1)) := by
  calc exec (.round i) (s.roundedTo i.toNat)
    _ = _ := execRound_legal legal (s.roundedTo i.toNat)
    _ = .next (s.roundedTo (i.toNat + 1)) := by
      simp only [State.roundedTo, advance, roundsUpTo_succ (Nat.lt_succ_of_le legal), ← Nat.add_assoc,
        BitVec.ofNat_add, BitVec.add_assoc]

/-- ROUND 0..63 perform the 64 rounds. -/
theorem execAll_round (s : State) :
    execAll ((List.range 64).map fun i => .round (BitVec.ofNat 8 i)) (s.roundedTo 0) = .next (s.roundedTo 64) := by
  refine execAll_range fun i hi => ?_
  have operand : (BitVec.ofNat 8 i).toNat = i := Nat.mod_eq_of_lt (by omega)
  have legal : legalRoundIndex (BitVec.ofNat 8 i) := by omega
  simpa only [operand] using exec_round_roundedTo s legal

/-- FFWD adds whatever working variables stand (42_compression.md R170). -/
theorem exec_ffwd_vars (s : State) (u : WorkVars) (a : BitVec 8) :
    exec .ffwd { s with wv := u, upc := a } =
      .next { s with H := feedForward s.H u, wv := u, bp := s.bp + 1#64, upc := a + 1#8 } := rfl

/-- FFWD after the rounds leaves Compress(H, W) (42_compression.md R172). -/
theorem exec_ffwd_roundedTo (s : State) :
    exec .ffwd (s.roundedTo 64) = .next { s with
      H := compress s.H s.W, wv := roundsUpTo s.W 64 (workVarsOf s.H), bp := s.bp + 1#64, upc := s.upc + 66#8 } := by
  have upc : s.upc + BitVec.ofNat 8 (1 + 64) + 1#8 = s.upc + 66#8 := BitVec.add_assoc ..
  rw [State.roundedTo, exec_ffwd_vars, upc, compress]

end Sys2Proof.Machine

namespace Sys2Proof.Proofs

open Sys2Proof Sys2Proof.Machine Sys2Proof.Claims

/-- Settles O20: INITWV copies H lane by lane. -/
theorem ldivAndInitwvCopyTheHashState : Obligations.LdivAndInitwvCopyTheHashState :=
  ⟨⟨rfl, rfl, rfl⟩, ⟨rfl, rfl, rfl⟩, fun _ => rfl, fun s => ⟨_, rfl, rfl, lanes_workVarsOf s.H⟩⟩

/-- Settles O21: the sums of words are those of numbers, reduced mod 2^32. -/
theorem roundUpdatesTheWorkingVariables : Obligations.RoundUpdatesTheWorkingVariables := by
  refine fun s i hi => ⟨encodedAs_row_or_operand (u := 0x32#8) (decide_eq_true hi) rfl,
    _, execRound_legal hi s, rfl, ?_⟩
  rintro temp1 temp2 rfl rfl
  refine ⟨?_, ?_, rfl, rfl, rfl, rfl, rfl, rfl⟩ <;>
    simp only [advance_wv, roundStep, BitVec.toNat_add, Nat.mod_add_mod]

/-- Settles O22: each lane is a sum of words, which wraps on its own. -/
theorem ffwdAddsLaneByLane : Obligations.FfwdAddsLaneByLane := by
  refine ⟨⟨rfl, rfl, rfl⟩, fun s => ⟨_, rfl, rfl, fun j v lane => ?_⟩⟩
  rw [advance_H, feedForward_getElem s.H lane, BitVec.toNat_add]

/-- Settles O23: the rounds start from H, and FFWD adds what they leave to it. -/
theorem compressionOfTheCurrentBlock : Obligations.CompressionOfTheCurrentBlock := by
  intro s
  rw [List.cons_append, execAll_cons (exec_initwv s), execAll_append (execAll_round s),
    execAll_cons (exec_ffwd_roundedTo s), execAll]

end Sys2Proof.Proofs
end

section
/-! PROOFS. A whole run with the host silent (44_control.md R228, R230): up to LOOPBLK the micro-program runs straight
on, so what a block leaves is what its instructions leave one after the other; over the blocks that is the end state of
R230. -/

namespace Sys2Proof.Machine

open Sys2Proof.Claims

variable {s t u : State} {msg : List Byte} {b k m : Nat}

/-! ### Several steps of a silent host -/

/-- With no turn pending the core performs the operation at upc. -/
theorem step_silent {i : Instr} (silent : s.turns = []) (busy : s.busy = true) (op : MicroOp s.upc i) :
    step s = exec i s := by
  rw [step_microOp (nextTurn_eq_of_nil silent) busy op, popTurn_eq_of_nil silent]

/-- One step more is taken where the steps before it led. -/
theorem core_run_snoc (run : Sys2Proof.core.run k s = .next t) (last : step t = .next u) :
    Sys2Proof.core.run (k + 1) s = .next u :=
  (core_run_last run).trans last

theorem core_run_append (first : Sys2Proof.core.run k s = .next t) (second : Sys2Proof.core.run m t = .next u) :
    Sys2Proof.core.run (k + m) s = .next u := by
  induction k generalizing s with
  | zero =>
    obtain rfl : s = t := Host.Outcome.next.inj first
    rwa [Nat.zero_add]
  | succ k ih =>
    rw [Nat.add_right_comm]
    cases hs : step s with
    | next v => rw [core_run_of_step hs] at first ⊢; exact ih first
    | fault r => simp [Host.Core.run, show Sys2Proof.core.step s = _ from hs] at first
    | refused r => simp [Host.Core.run, show Sys2Proof.core.step s = _ from hs] at first

/-! ### Straight-line parts of the micro-program -/

/-- `StraightLine a is`: from address `a` on, and before LOOPBLK, the micro-program holds `is`. -/
inductive StraightLine : BitVec 8 → List Instr → Prop
  | nil {a : BitVec 8} : StraightLine a []
  | cons {a : BitVec 8} {i : Instr} {is : List Instr} (op : MicroOp a i) (bound : a.toNat ≤ 133)
      (rest : StraightLine (a + 1#8) is) : StraightLine a (i :: is)

theorem StraightLine.append {a : BitVec 8} {is js : List Instr} (first : StraightLine a is)
    (second : StraightLine (a + BitVec.ofNat 8 is.length) js) : StraightLine a (is ++ js) := by
  induction first with
  | nil => rwa [List.length_nil, BitVec.add_zero] at second
  | cons op bound rest ih =>
    refine .cons op bound (ih ?_)
    rwa [List.length_cons, Nat.add_comm, BitVec.ofNat_add, ← BitVec.add_assoc] at second

/-- The operations at `n` addresses in a row. -/
theorem StraightLine.range {a n : Nat} {op : Nat → Instr} (bound : a + n ≤ 134)
    (each : ∀ k, k < n → MicroOp (BitVec.ofNat 8 (a + k)) (op k)) :
    StraightLine (BitVec.ofNat 8 a) ((List.range n).map op) := by
  induction n with
  | zero => exact .nil
  | succ n ih =>
    have addr : (BitVec.ofNat 8 (a + n)).toNat = a + n := Nat.mod_eq_of_lt (by omega)
    rw [List.range_succ, List.map_append]
    refine (ih (by omega) fun k hk => each k (by omega)).append ?_
    rw [List.length_map, List.length_range, ← BitVec.ofNat_add]
    exact .cons (each n n.lt_succ_self) (by omega) .nil

/-- Before LOOPBLK an operation moves upc to the next address, and the run goes on. -/
theorem CoreEffect.forward {i : Instr} (effect : CoreEffect s i t) (bound : s.upc.toNat ≤ 133) :
    t.upc = s.upc + 1#8 ∧ t.busy = s.busy := by
  cases effect with
  | pad upc padded => rw [execPad_frame padded]; exact ⟨rfl, rfl⟩
  | datapath lo hi step => rw [step.frame]; exact ⟨rfl, rfl⟩
  | ffwd upc => exact ⟨rfl, rfl⟩
  | loopBack upc | loopExit upc | fmt upc | endRun upc => simp [upc] at bound

/-- With a silent host the run performs a straight-line part one operation after the other. -/
theorem StraightLine.run {is : List Instr} (line : StraightLine s.upc is) (silent : s.turns = [])
    (busy : s.busy = true) (all : execAll is s = .next t) : Sys2Proof.core.run is.length s = .next t := by
  induction is generalizing s with
  | nil => exact all
  | cons i is ih =>
    cases line with
    | cons op bound rest =>
      obtain ⟨u, hu⟩ := op.completes s
      have effect := op.effect rfl hu
      obtain ⟨upc, stays⟩ := effect.forward bound
      rw [execAll_cons hu] at all
      rw [List.length_cons, core_run_of_step ((step_silent silent busy op).trans hu)]
      exact ih (upc ▸ rest) (effect.turns_eq.trans silent) (stays.trans busy) all

/-! ### PAD, DIAGP, LDIV -/

/-- A diagnostic event is emitted if SDIAG is set (43_output.md R200, R202). -/
theorem emit_if (s : State) (on : Bool) (e : DiagEvent) :
    (if on then emit s e else s) = { s with diagStream := s.diagStream ++ if on then [e] else [] } := by
  cases on
  · simp
  · rfl

/-- `s` after PAD, DIAGP and LDIV on a written message. -/
def State.opened (s : State) (msg : List Byte) : State :=
  { s with
    P := padMessage msg
    plen := BitVec.ofNat 64 (padMessage msg).length
    nblk := BitVec.ofNat 64 (padMessage msg).length / 64#64
    bp := 0#64
    H := initialHash
    diagStream := s.diagStream ++ if s.sdiag then [.padded (padMessage msg)] else []
    upc := s.upc + 3#8 }

theorem execAll_opening (message : s.holdsMessage msg) :
    execAll [.pad, .diagp, .ldiv] s = .next (s.opened msg) := by
  have pads := execPad_written message.1 message.2
  obtain ⟨-, plen, -⟩ := execPad_lengths pads
  have reports := execDiagp_whole plen
  rw [emit_if] at reports
  rw [execAll_cons (i := .pad) pads, execAll_cons (i := .diagp) reports, execAll_cons (i := .ldiv) rfl, execAll]
  simp only [advance, BitVec.add_assoc]
  rfl

theorem run_opening (silent : s.turns = []) (busy : s.busy = true) (upc : s.upc = 0#8)
    (message : s.holdsMessage msg) : Sys2Proof.core.run 3 s = .next (s.opened msg) := by
  have line : StraightLine s.upc [.pad, .diagp, .ldiv] := by
    rw [upc]
    exact .cons .pad (by decide) (.cons .diagp (by decide) (.cons .ldiv (by decide) .nil))
  exact line.run silent busy (execAll_opening message)

/-! ### One block -/

/-- The operations of a block before LOOPBLK: those of its schedule, DIAGW, those of its compression. -/
def blockOps : List Instr :=
  ((List.range 16).map (fun t => Instr.loadw (BitVec.ofNat 8 t)) ++
    (List.range 48).map (fun t => Instr.expw (BitVec.ofNat 8 (16 + t)))) ++
  .diagw :: (.initwv :: (List.range 64).map (fun i => Instr.round (BitVec.ofNat 8 i)) ++ [.ffwd])

/-- `s` after the operations of its current block. -/
def State.afterBlock (s : State) : State :=
  { s with
    W := s.schedule
    wv := roundsUpTo s.schedule 64 (workVarsOf s.H)
    H := compress s.H s.schedule
    bp := s.bp + 1#64
    diagStream := s.diagStream ++ if s.sdiag then [.schedule s.bp s.schedule] else []
    upc := s.upc + 131#8 }

theorem straightLine_blockOps : StraightLine 3#8 blockOps := by
  have byte {n : Nat} (h : n < 256) : (BitVec.ofNat 8 n).toNat = n := Nat.mod_eq_of_lt h
  have loads : StraightLine 3#8 ((List.range 16).map fun t => .loadw (BitVec.ofNat 8 t)) :=
    .range (a := 3) (by omega) fun k hk =>
      .loadw (by rw [legalLoadIndex, byte (by omega)]; omega) (by rw [byte (by omega), byte (by omega)])
  have expands : StraightLine 19#8 ((List.range 48).map fun t => .expw (BitVec.ofNat 8 (16 + t))) :=
    .range (a := 19) (by omega) fun k hk =>
      .expw (by rw [legalExpandIndex, byte (by omega)]; omega) (by rw [byte (by omega), byte (by omega)]; omega)
  have rounds : StraightLine 69#8 ((List.range 64).map fun i => .round (BitVec.ofNat 8 i)) :=
    .range (a := 69) (by omega) fun k hk =>
      .round (by rw [legalRoundIndex, byte (by omega)]; omega) (by rw [byte (by omega), byte (by omega)])
  exact (loads.append expands).append
    (.cons .diagw (by decide) (.cons .initwv (by decide) (rounds.append (.cons .ffwd (by decide) .nil))))

/-- DIAGW appends the schedule of the block that BP points at (43_output.md R202). -/
theorem exec_diagw (s : State) :
    exec .diagw s = .next (advance { s with
      diagStream := s.diagStream ++ if s.sdiag then [.schedule s.bp s.W] else [] }) := by
  rw [exec, execDiagw, emit_if]

theorem execAll_blockOps (inside : 64 * s.bp.toNat + 64 ≤ s.P.length) :
    execAll blockOps s = .next s.afterBlock := by
  rw [blockOps, execAll_append (Proofs.scheduleOfTheCurrentBlock s inside), execAll_cons (exec_diagw _),
    Proofs.compressionOfTheCurrentBlock]
  simp only [advance, State.afterBlock, State.schedule, BitVec.add_assoc]
  rfl

theorem run_block (silent : s.turns = []) (busy : s.busy = true) (upc : s.upc = 3#8)
    (inside : 64 * s.bp.toNat + 64 ≤ s.P.length) : Sys2Proof.core.run 131 s = .next s.afterBlock :=
  StraightLine.run (upc ▸ straightLine_blockOps) silent busy (execAll_blockOps inside)

/-! ### All blocks -/

theorem runEvents_succ (P : List Byte) (b : Nat) :
    runEvents P (b + 1) = runEvents P b ++ [.schedule (BitVec.ofNat 64 b) (scheduleOf (blockOf P b))] := by
  simp [runEvents, List.range_succ]

/-- `BlocksDone s msg b t`: the silent run on `msg` from `s` has compressed `b` blocks in `t`. -/
structure BlocksDone (s : State) (msg : List Byte) (b : Nat) (t : State) : Prop extends Hashed msg b t where
  frame : t = { s with
    H := t.H, wv := t.wv, W := t.W, P := t.P, plen := t.plen, nblk := t.nblk, bp := t.bp, upc := t.upc,
    diagStream := t.diagStream }
  plen : t.plen.toNat = 64 * blockCount msg.length
  stream : t.diagStream = s.diagStream ++ if s.sdiag then runEvents (padMessage msg) b else []
  lastBlock : ∀ c, b = c + 1 → t.W = blockSchedule msg c ∧
    t.wv = roundsUpTo t.W 64 (workVarsOf (hashAfter (padMessage msg) c))

/-- The run is not over, and the host stays silent. -/
theorem BlocksDone.running (h : BlocksDone s msg b t) (silent : s.turns = []) (busy : s.busy = true) :
    t.turns = [] ∧ t.busy = true := by
  rw [h.frame]
  exact ⟨silent, busy⟩

theorem blocksDone_opened (message : s.holdsMessage msg) : BlocksDone s msg 0 (s.opened msg) := by
  obtain ⟨-, plen, nblk⟩ := execPad_lengths (execPad_written message.1 message.2)
  rw [plen] at nblk
  simp only [advance_plen, advance_nblk, advance_P, padMessage_length_eq_blocks] at plen nblk
  exact {
    P := rfl, bp := rfl, H := rfl, frame := rfl, stream := rfl, lastBlock := nofun
    nblk := by simp only [State.opened, padMessage_length_eq_blocks, nblk]; omega
    plen := by simp only [State.opened, padMessage_length_eq_blocks, plen] }

/-- The operations of a block compress it, and emit its schedule if SDIAG is set. -/
theorem BlocksDone.afterBlock (h : BlocksDone s msg b t) (inside : b < blockCount msg.length) :
    BlocksDone s msg (b + 1) t.afterBlock := by
  have schedule : t.schedule = blockSchedule msg b := by rw [State.schedule, h.P, h.bp, blockSchedule]
  have bp : t.bp = BitVec.ofNat 64 b := by rw [← h.bp, BitVec.ofNat_toNat, BitVec.setWidth_eq]
  have sdiag : t.sdiag = s.sdiag := by rw [h.frame]
  have small := t.nblk.isLt
  have nblk := h.nblk
  exact {
    P := h.P
    nblk := nblk
    bp := by
      simp only [State.afterBlock]
      rw [BitVec.toNat_add_of_lt (by simp [h.bp]; omega), h.bp]; rfl
    H := by simp only [State.afterBlock, schedule, h.H, hashAfter, blockSchedule]
    frame := by rw [h.frame]; rfl
    plen := h.plen
    stream := by
      simp only [State.afterBlock, h.stream, sdiag, schedule, bp, runEvents_succ, blockSchedule]
      cases s.sdiag <;> simp
    lastBlock := by
      rintro c ⟨⟩
      simp only [State.afterBlock, schedule, h.H, and_self] }

/-- Where upc stands is no part of what the blocks leave. -/
theorem BlocksDone.setUpc (h : BlocksDone s msg b t) (a : BitVec 8) : BlocksDone s msg b { t with upc := a } :=
  { h with frame := by rw [h.frame] }

/-- LOOPBLK goes back to the next block, or on to FMT after the last (44_control.md R231). -/
theorem BlocksDone.loop (h : BlocksDone s msg b t) (silent : s.turns = []) (busy : s.busy = true)
    (upc : t.upc = 134#8) :
    ∃ t', step t = .next t' ∧ BlocksDone s msg b t' ∧ t'.upc = if b < blockCount msg.length then 3#8 else 135#8 := by
  have more : t.bp < t.nblk ↔ b < blockCount msg.length := by rw [BitVec.lt_def, h.bp, h.nblk]
  obtain ⟨silent, busy⟩ := h.running silent busy
  have op : MicroOp t.upc (.loopblk 3#8) := upc ▸ .loopblk
  have loops : step t = _ := (step_silent silent busy op).trans (execLoopblk_legal (by decide) t)
  simp only [more] at loops
  refine ⟨_, loops, ?_, ?_⟩
  · split
    · exact h.setUpc _
    · exact h.setUpc _
  · split
    · rfl
    · simp [upc]

/-- 132 steps for each block, after the first three. -/
theorem run_blocks (silent : s.turns = []) (busy : s.busy = true) (upc : s.upc = 0#8)
    (message : s.holdsMessage msg) (hb : b ≤ blockCount msg.length) :
    ∃ t : State, Sys2Proof.core.run (132 * b + 3) s = .next t ∧ BlocksDone s msg b t ∧
      t.upc = if b < blockCount msg.length then 3#8 else 135#8 := by
  induction b with
  | zero =>
    have atLeastOne : 0 < blockCount msg.length := Nat.succ_pos _
    refine ⟨_, run_opening silent busy upc message, blocksDone_opened message, ?_⟩
    rw [if_pos atLeastOne, State.opened, upc]
    rfl
  | succ b ih =>
    obtain ⟨t, run, blocks, at3⟩ := ih (by omega)
    rw [if_pos (by omega)] at at3
    obtain ⟨silentT, busyT⟩ := blocks.running silent busy
    have lenP := padMessage_length_eq_blocks msg
    have block := run_block silentT busyT at3 (by rw [blocks.bp, blocks.P]; omega)
    obtain ⟨t', loops, blocks', upc'⟩ :=
      (blocks.afterBlock (by omega)).loop silent busy (by simp [State.afterBlock, at3])
    have run' := core_run_snoc (core_run_append run block) loops
    have steps : 132 * (b + 1) + 3 = 132 * b + 3 + 131 + 1 := by omega
    exact ⟨t', steps ▸ run', blocks', upc'⟩

/-! ### FMT and END -/

/-- `s` after FMT. -/
def State.formatted (s : State) : State :=
  advance { s with
    out := s.out.writeList 0 (textOf s.smode s.H), outLen := BitVec.ofNat 9 (textOf s.smode s.H).length }

/-- With a silent host FMT and END complete a run that has its digest. -/
theorem run_closing (silent : s.turns = []) (busy : s.busy = true) (upc : s.upc = 135#8) (H : s.H = digestWords msg) :
    Sys2Proof.core.run 2 s = .next (finishRun s.formatted) ∧ Completed msg s.smode (finishRun s.formatted) := by
  have atFmt : RunAt msg s.smode (132 * blockCount msg.length + 3) s := ⟨busy, rfl, .finished upc H rfl⟩
  have formats : MicroOp s.upc .fmt := upc ▸ .fmt
  have format : step s = .next s.formatted := step_silent silent busy formats
  have ends : MicroOp s.formatted.upc .endRun := by rw [State.formatted, advance_upc, upc]; exact .endRun
  have finish : step s.formatted = .next (finishRun s.formatted) := step_silent (s := s.formatted) silent busy ends
  obtain ⟨u, hu, -, atEnd⟩ := atFmt.coreStep (by omega) (nextTurn_eq_of_nil silent)
  obtain rfl : s.formatted = u := Host.Outcome.next.inj (format.symm.trans hu)
  obtain ⟨t, ht, -, completed⟩ := atEnd.lastStep (nextTurn_eq_of_nil silent)
  obtain rfl : finishRun s.formatted = t := Host.Outcome.next.inj (finish.symm.trans ht)
  exact ⟨core_run_snoc (core_run_snoc (k := 0) rfl format) finish, completed⟩

end Sys2Proof.Machine

namespace Sys2Proof.Proofs

open Sys2Proof Sys2Proof.Machine Sys2Proof.Claims

/-- Settles O57: the blocks leave all of R230 but BUSY, DONE and the text, which FMT and END leave. -/
theorem runComputesTheDigest : Obligations.RunComputesTheDigest := by
  rintro s msg n busy upc silent message rfl
  obtain ⟨t, run, blocks, at135⟩ := run_blocks silent busy upc message le_rfl
  rw [if_neg (Nat.lt_irrefl _)] at at135
  have H : t.H = digestWords msg := blocks.H.trans (digestWords_eq msg).symm
  obtain ⟨W, wv⟩ := blocks.lastBlock (blockCount msg.length - 1) (Nat.sub_add_cancel (Nat.succ_pos _)).symm
  obtain ⟨silentT, busyT⟩ := blocks.running silent busy
  obtain ⟨closes, completed⟩ := run_closing silentT busyT at135 H
  have all := core_run_append run closes
  have steps : 132 * blockCount msg.length + 5 = 132 * blockCount msg.length + 3 + 2 := by omega
  refine ⟨_, steps ▸ all, completed.H, ?_, completed.busy, completed.done, blocks.bp, blocks.nblk, blocks.plen, ?_, W,
    wv, blocks.stream, ?_⟩
  · have smode : t.smode = s.smode := by rw [blocks.frame]
    rw [completed.H, ← smode]
    exact completed.text
  · simp [State.formatted, at135]
  · rw [blocks.frame]
    exact ⟨rfl, rfl, rfl, rfl, rfl⟩

end Sys2Proof.Proofs
end

section
/-! PROOFS. The output formatter (43_output.md R190 to R193, R200, R202): what FMT leaves in OUT, the digits of the
three numeral texts, and the events of DIAGP and DIAGW. -/

namespace Sys2Proof.Machine

open Sys2Proof.Claims

/-! ### FMT, DIAGP, DIAGW -/

theorem exec_fmt (s : State) : exec .fmt s = .next s.formatted := rfl

/-- OUT_LEN has room for the length of every text (10_state.md R40). -/
theorem formatted_showsText (s : State) : s.formatted.showsText (textOf s.smode s.H) := by
  have fits := textOf_length_le s.smode s.H
  refine ⟨Nat.mod_eq_of_lt (by omega), fun k hk => ?_⟩
  rw [State.formatted, advance_out, Memory.read_writeList, if_pos (by omega), Nat.sub_zero]

theorem formatted_out_read_above (s : State) {k : Nat} (hk : (textOf s.smode s.H).length ≤ k) :
    s.formatted.out.read k = s.out.read k := by
  rw [State.formatted, advance_out, Memory.read_writeList, if_neg (by omega)]

/-- An operation that emits `e` if SDIAG is set changes DIAGSTREAM and upc only. -/
theorem advance_emit_if_sdiag (s : State) (e : DiagEvent) :
    advance (if s.sdiag then emit s e else s) = { s with
      diagStream := if s.sdiag then s.diagStream ++ [e] else s.diagStream
      upc := s.upc + 1#8 } := by
  split
  · rfl
  · rfl

/-! ### The Hexadecimal text -/

theorem digitChar_eq_ofNat {d : Nat} (h : d < 16) :
    digitChar d = BitVec.ofNat 8 (if d < 10 then 0x30 + d else 0x37 + d) := by
  unfold digitChar
  split
  · rfl
  · rw [show 0x41 + (d - 10) = 0x37 + d by omega]

theorem hex8_getElem? (x : Word) {k : Nat} (hk : k < 8) :
    (hex8 x)[k]? = some (digitChar (x.toNat / 16 ^ (7 - k) % 16)) := by
  have place : 2 ^ (28 - 4 * k) = 16 ^ (7 - k) := by
    rw [show 28 - 4 * k = 4 * (7 - k) by omega, Nat.pow_mul]
  rw [hex8, List.getElem?_map, List.getElem?_range hk, Option.map_some, BitVec.extractLsb'_toNat,
    Nat.shiftRight_eq_div_pow, place]

/-- A concatenation of pieces of one length `n` is read by the piece and the place in it. -/
theorem getElem?_flatMap_of_length {α β : Type} {f : α → List β} {n : Nat} (hf : ∀ x, (f x).length = n)
    (l : List α) (j : Nat) {k : Nat} (hk : k < n) : (l.flatMap f)[n * j + k]? = l[j]?.bind fun x => (f x)[k]? := by
  induction l generalizing j with
  | nil => rfl
  | cons x xs ih =>
    rw [List.flatMap_cons]
    cases j with
    | zero =>
      rw [Nat.mul_zero, Nat.zero_add, List.getElem?_append_left (by rw [hf]; exact hk)]
      rfl
    | succ j =>
      have place : n * (j + 1) + k = n + (n * j + k) := by rw [Nat.mul_succ]; omega
      rw [place, List.getElem?_append_right (by rw [hf]; omega), hf, Nat.add_sub_cancel_left, ih,
        List.getElem?_cons_succ]

/-! ### Numerals -/

section
variable {base fuel n : Nat}

/-- Fuel for a number of at least two digits is fuel for its quotient, and not used up by the last digit. -/
theorem quotient_lt_pow (large : base ≤ n) (h : n < base ^ (fuel + 1)) : 0 < fuel ∧ n / base < base ^ fuel := by
  refine ⟨Nat.pos_of_ne_zero ?_, Nat.div_lt_of_lt_mul (by rwa [← Nat.pow_succ'])⟩
  rintro rfl
  rw [Nat.zero_add, Nat.pow_one] at h
  omega

/-- A numeral has as many digits as the logarithm in its base says, and one for 0. -/
theorem numeralDigits_length (hb : 1 < base) (hf : 0 < fuel) (h : n < base ^ fuel) :
    (numeralDigits base fuel n).length = Nat.log base n + 1 := by
  induction fuel generalizing n with
  | zero => omega
  | succ f ih =>
    rw [numeralDigits]
    split
    · next small => rw [Nat.log_of_lt small]; rfl
    · next large =>
      obtain ⟨more, rest⟩ := quotient_lt_pow (by omega) h
      have log : Nat.log base n = Nat.log base (n / base) + 1 := Nat.log_of_one_lt_of_le hb (Nat.le_of_not_lt large)
      rw [List.length_append, ih more rest, log]
      rfl

/-- No leading zeros: only the numeral of 0 begins with the digit 0. -/
theorem eq_zero_of_numeralDigits_head (hb : 0 < base) (h : n < base ^ fuel)
    (head : (numeralDigits base fuel n).head? = some 0) : n = 0 := by
  induction fuel generalizing n with
  | zero => simpa using h
  | succ f ih =>
    rw [numeralDigits] at head
    split at head
    · simpa using head
    · next large =>
      obtain ⟨more, rest⟩ := quotient_lt_pow (by omega) h
      rw [List.head?_append_of_ne_nil _ (List.ne_nil_of_length_pos (numeralDigits_length_pos _ more))] at head
      have quotient : 0 < n / base := Nat.div_pos (by omega) hb
      exact absurd (ih rest head) quotient.ne'

theorem digitChar_toNat {d : Nat} (h : d < 10) : (digitChar d).toNat = 0x30 + d := by
  rw [digitChar_eq_ofNat (by omega), if_pos h]
  exact Nat.mod_eq_of_lt (by omega)

/-- ASCII digits stand for what the digits do. -/
theorem numeralValue_map_digitChar {ds : List Nat} (h : ∀ d ∈ ds, d < 10) :
    numeralValue base (ds.map digitChar) = ds.foldl (fun v d => v * base + d) 0 := by
  rw [numeralValue, List.foldl_map]
  refine List.foldl_ext _ _ _ fun v d hd => ?_
  rw [digitChar_toNat (h d hd), Nat.add_sub_cancel_left]

end

theorem binNumeral_length (x : Word) : (binNumeral x).length = Nat.log2 x.toNat + 1 := by
  rw [binNumeral, List.length_map, numeralDigits_length (by omega) (by omega) x.isLt, Nat.log2_eq_log_two]

theorem mem_binNumeral {x : Word} {c : Byte} (hc : c ∈ binNumeral x) : c = 0x30#8 ∨ c = 0x31#8 := by
  obtain ⟨d, hd, rfl⟩ := List.mem_map.1 hc
  have bit := numeralDigits_lt (by omega) 32 x.toNat d hd
  interval_cases d
  · exact .inl rfl
  · exact .inr rfl

theorem numeralValue_binNumeral (x : Word) : numeralValue 2 (binNumeral x) = x.toNat := by
  have digits := numeralDigits_lt (base := 2) (by omega) 32 x.toNat
  rw [binNumeral, numeralValue_map_digitChar fun d hd => (digits d hd).trans (by omega),
    numeralDigits_value 2 32 _ x.isLt]

/-- Ten decimal digits suffice for a word (43_output.md R193). -/
theorem word_lt_ten_pow (x : Word) : x.toNat < 10 ^ 10 := x.isLt.trans (by norm_num)

theorem mem_decNumeral {x : Word} {c : Byte} (hc : c ∈ decNumeral x) : 0x30 ≤ c.toNat ∧ c.toNat ≤ 0x39 := by
  obtain ⟨d, hd, rfl⟩ := List.mem_map.1 hc
  have digit := numeralDigits_lt (by omega) 10 x.toNat d hd
  rw [digitChar_toNat digit]
  omega

theorem numeralValue_decNumeral (x : Word) : numeralValue 10 (decNumeral x) = x.toNat := by
  rw [decNumeral, numeralValue_map_digitChar (numeralDigits_lt (by omega) 10 x.toNat),
    numeralDigits_value 10 10 _ (word_lt_ten_pow x)]

theorem eq_zero_of_decNumeral_head {x : Word} (head : (decNumeral x).head? = some 0x30#8) : x = 0#32 := by
  rw [decNumeral, List.head?_map, Option.map_eq_some_iff] at head
  obtain ⟨d, first, code⟩ := head
  have digit := digitChar_toNat (numeralDigits_lt (by omega) 10 x.toNat d (List.mem_of_head? first))
  rw [code, BitVec.toNat_ofNat] at digit
  obtain rfl : d = 0 := by omega
  exact BitVec.eq_of_toNat_eq (eq_zero_of_numeralDigits_head (by omega) (word_lt_ten_pow x) first)

/-! ### Texts of eight numerals -/

section
variable (H : Vector Word 8) {f : Word → List Byte}

theorem hash_flatMap : H.toList.flatMap f =
    f H[0] ++ f H[1] ++ f H[2] ++ f H[3] ++ f H[4] ++ f H[5] ++ f H[6] ++ f H[7] := by
  simp [hash_toList]

theorem length_hash_flatMap_ge (hf : ∀ x, 0 < (f x).length) : 8 ≤ (H.toList.flatMap f).length := by
  rw [List.length_flatMap]
  simpa using List.card_nsmul_le_sum (H.toList.map fun x => (f x).length) 1 (by simp [hf, Nat.succ_le_iff])

theorem length_hash_flatMap_le {m : Nat} (hf : ∀ x, (f x).length ≤ m) : (H.toList.flatMap f).length ≤ 8 * m := by
  rw [List.length_flatMap]
  simpa using List.sum_le_card_nsmul (H.toList.map fun x => (f x).length) m (by simp [hf])

end

end Sys2Proof.Machine

namespace Sys2Proof.Proofs

open Sys2Proof Sys2Proof.Machine Sys2Proof.Claims

/-- Settles O24: FMT's text fits OUT_LEN, and writing it leaves the bytes above it. -/
theorem fmtWritesTheText : Obligations.FmtWritesTheText :=
  ⟨⟨rfl, rfl, rfl⟩, fun s => ⟨s.formatted, exec_fmt s, rfl, formatted_showsText s,
    fun _ hk => formatted_out_read_above s hk⟩⟩

/-- Settles O25: the eight digits of each word stand at its place, each the residue that R191's bits spell. -/
theorem hexTextIsSixtyFourDigits : Obligations.HexTextIsSixtyFourDigits := by
  intro H
  refine ⟨by simp [textOf, hash_toList], ?_⟩
  rintro j k d rfl
  rw [textOf, getElem?_flatMap_of_length hex8_length _ _ k.isLt, ← digitChar_eq_ofNat (Nat.mod_lt _ (by omega))]
  have word : H.toList[j.val]? = some H[j] := by simp
  rw [word, Option.bind_some, hex8_getElem? _ k.isLt]

/-- Settles O26: a word has as many binary digits as its logarithm says. -/
theorem binaryTextOfNumerals : Obligations.BinaryTextOfNumerals := by
  refine fun H => ⟨hash_flatMap H, length_hash_flatMap_ge H binNumeral_length_pos,
    textOf_length_le .binary H, fun x => ⟨?_, fun c => mem_binNumeral, numeralValue_binNumeral x⟩⟩
  rw [binNumeral_length]
  split
  · next zero => rw [zero]; rfl
  · rfl

/-- Settles O27: ten digits suffice for a word, and only the numeral of 0 begins with 0. -/
theorem integerTextOfNumerals : Obligations.IntegerTextOfNumerals := by
  refine fun H => ⟨hash_flatMap H, length_hash_flatMap_ge H decNumeral_length_pos,
    length_hash_flatMap_le H decNumeral_length_le, fun x => ⟨List.ne_nil_of_length_pos (decNumeral_length_pos x),
      fun c => mem_decNumeral, numeralValue_decNumeral x, fun head => ?_⟩⟩
  obtain rfl := eq_zero_of_decNumeral_head head
  exact ⟨rfl, rfl⟩

/-- Settles O29: with P whole DIAGP reads nothing else, so both operations only emit their event. -/
theorem diagnosticEventsAreEmitted : Obligations.DiagnosticEventsAreEmitted := by
  refine ⟨⟨rfl, rfl, rfl⟩, ⟨rfl, rfl, rfl⟩, fun s whole => ?_, fun s => ?_⟩
  · rw [← advance_emit_if_sdiag]
    exact execDiagp_whole whole
  · rw [← advance_emit_if_sdiag]
    rfl

end Sys2Proof.Proofs
end

section
/-! PROOFS. The commands of the host and of the sequencer's loop (44_control.md R220 to R232): the micro-program word by
word, what a write to CMD answers, and what DIGEST, SETMODE, TOGGLEDIAG, LOOPBLK and END change. -/

namespace Sys2Proof.Machine

open Sys2Proof.Claims

variable {s : State} {v : Word}

/-! ### The micro-program -/

/-- The operation of R229 at an address is what the word there decodes to. -/
theorem MicroOp.decoded {a : BitVec 8} {i : Instr} (op : MicroOp a i) :
    (uprogWord a).map decodeCommand = some (.ok i) := by
  obtain ⟨w, hw, hi⟩ := op.word
  rw [hw, Option.map_some, hi]

/-- UPROG ends at address 136. -/
theorem uprogWord_eq_none {a : BitVec 8} (h : 137 ≤ a.toNat) : uprogWord a = none := by
  rw [Option.eq_none_iff_forall_ne_some]
  intro w hw
  have := uprogWord_address_le hw
  omega

/-! ### A write to CMD -/

theorem extractHigh_ne_zero (h : 2 ^ 16 ≤ v.toNat) : v.extractLsb' 16 16 ≠ 0#16 := by
  intro zero
  have bits := congrArg BitVec.toNat zero
  rw [BitVec.extractLsb'_toNat, Nat.shiftRight_eq_div_pow, BitVec.toNat_ofNat] at bits
  have := v.isLt
  omega

theorem extractHigh_eq_zero (h : v.toNat < 2 ^ 16) : v.extractLsb' 16 16 = 0#16 := by
  apply BitVec.eq_of_toNat_eq
  rw [BitVec.extractLsb'_toNat, Nat.shiftRight_eq_div_pow, Nat.div_eq_of_lt h]
  rfl

/-- With bits 31:16 zero the command word decides (44_control.md R220). -/
theorem issueCommand_of_error {e : DecodeError} (high : v.extractLsb' 16 16 = 0#16)
    (illegal : decodeCommand (v.extractLsb' 0 16) = .error e) : issueCommand v s = .next (reject s) := by
  simp only [issueCommand, high, illegal, ne_eq, not_true_eq_false, if_false]

/-- Of the legal words a host command runs, and any other is rejected (30_encoding.md R97). -/
theorem issueCommand_of_ok {i : Instr} (high : v.extractLsb' 16 16 = 0#16)
    (legal : decodeCommand (v.extractLsb' 0 16) = .ok i) :
    issueCommand v s = if i.issuer = .hostCommand then exec i s else .next (reject s) := by
  simp only [issueCommand, high, legal, ne_eq, not_true_eq_false, if_false]
  cases i <;> rfl

/-! ### The commands and the loop -/

theorem execDigest_accepted (idle : s.busy = false) (fits : s.msgLen.toNat ≤ Config.maxMsgBytes) :
    execDigest s = .next (acceptDigest s) := by
  have notOver : ¬Config.maxMsgBytes < s.msgLen.toNat := Nat.not_lt.2 fits
  simp only [execDigest, idle, Bool.false_eq_true, if_false, notOver]

theorem execDigest_rejected (h : s.busy = true ∨ Config.maxMsgBytes < s.msgLen.toNat) :
    execDigest s = .next (reject s) := by
  unfold execDigest
  split
  · rfl
  · next idle => rw [if_pos (h.resolve_left idle)]

/-- A code up to 3 stands in its low two bits, so the mode set is the one whose code it is (10_state.md R37). -/
theorem modeCode_of_setmode {m : BitVec 8} (legal : m.toNat ≤ 3) :
    (modeCode (modeOfCode (m.extractLsb' 0 2))).toNat = m.toNat := by
  rw [modeCode_modeOfCode, BitVec.extractLsb'_toNat, Nat.shiftRight_zero, Nat.mod_eq_of_lt (by omega)]

end Sys2Proof.Machine

namespace Sys2Proof.Proofs

open Sys2Proof Sys2Proof.Machine Sys2Proof.Claims

/-- Settles O37: bits 31:16 are looked at first, then the word, then who issues it. -/
theorem commandDispatch : Obligations.CommandDispatch := by
  refine fun s v => ⟨fun wide => if_pos (extractHigh_ne_zero wide), fun narrow => ?_⟩
  have high := extractHigh_eq_zero narrow
  refine ⟨fun e illegal => issueCommand_of_error high illegal, fun i legal who => ?_, fun i legal who => ?_⟩
  · exact (issueCommand_of_ok high legal).trans (if_neg (by simp [who]))
  · exact (issueCommand_of_ok high legal).trans (if_pos who)

/-- Settles O5: each row of R229 is an operation of the micro-program, whose word decodes to it. -/
theorem microProgramTable : Obligations.MicroProgramTable := by
  have literal {n : Nat} (hn : n < 256) : (BitVec.ofNat 8 n).toNat = n := Nat.mod_eq_of_lt hn
  refine ⟨MicroOp.pad.decoded, MicroOp.diagp.decoded, MicroOp.ldiv.decoded, fun t ht => ?_, fun t h16 h64 => ?_,
    MicroOp.diagw.decoded, MicroOp.initwv.decoded, fun t ht => ?_, MicroOp.ffwd.decoded, MicroOp.loopblk.decoded,
    MicroOp.fmt.decoded, MicroOp.endRun.decoded, fun a => uprogWord_eq_none⟩
  all_goals have operand : (BitVec.ofNat 8 t).toNat = t := literal (by omega)
  · exact (MicroOp.loadw (by omega) (by rw [literal (by omega), operand])).decoded
  · exact (MicroOp.expw (by omega) (by rw [literal (by omega), operand])).decoded
  · exact (MicroOp.round (by omega) (by rw [literal (by omega), operand])).decoded

/-- Settles O31: the write to CMD carries NOP's word, a host command, and so performs NOP. -/
theorem nopChangesNothing : Obligations.NopChangesNothing :=
  ⟨⟨rfl, rfl, rfl⟩, fun s => ⟨rfl, issueCommand_of_ok (v := 0x0000#32) (i := .nop) (s := s) rfl rfl⟩⟩

/-- Settles O32: BUSY decides first, then the length of the message. -/
theorem digestStartsARun : Obligations.DigestStartsARun :=
  ⟨⟨rfl, rfl, rfl⟩, fun _ => ⟨execDigest_accepted, fun busy => execDigest_rejected (.inl busy),
    fun _ tooLong => execDigest_rejected (.inr tooLong)⟩⟩

/-- Settles O33: the mode set is the one whose code m is. -/
theorem setmodeSetsTheMode : Obligations.SetmodeSetsTheMode := by
  refine fun s m => ⟨encodedAs_row_or_operand (u := 0x02#8) rfl rfl, fun legal => ?_, fun high => ?_⟩
  · refine ⟨{ s with mode := modeOfCode (m.extractLsb' 0 2) }, ?_, rfl, modeCode_of_setmode legal⟩
    exact congrArg _ (if_pos legal)
  · exact congrArg _ (if_neg (by omega))

/-- Settles O34: negation undoes itself. -/
theorem togglediagFlipsTheFlag : Obligations.TogglediagFlipsTheFlag := by
  refine ⟨⟨rfl, rfl, rfl⟩, fun s => ⟨_, rfl, rfl, ?_⟩⟩
  simp only [exec, execTogglediag, Bool.not_not]

/-- Settles O35: words compare as the numbers they are. -/
theorem loopblkLoopsOverTheBlocks : Obligations.LoopblkLoopsOverTheBlocks := by
  refine fun s tgt legal => ⟨encodedAs_row_or_operand (u := 0x40#8) (decide_eq_true legal) rfl, ?_⟩
  calc exec (.loopblk tgt) s
    _ = .next (if s.bp < s.nblk then { s with upc := tgt } else advance s) := execLoopblk_legal legal s
    _ = _ := by
      simp only [BitVec.lt_def]
      split
      · rfl
      · rfl

/-- Settles O36: that is `finishRun`, written out. -/
theorem endFinishesTheRun : Obligations.EndFinishesTheRun :=
  ⟨⟨rfl, rfl, rfl⟩, fun _ => rfl⟩

end Sys2Proof.Proofs
end

section
/-! PROOFS. The host bus transactions where their result is specified (44_control.md R234 to R237), region by region of
20_memory.md R64. -/

namespace Sys2Proof.Machine

open Sys2Proof.Claims

variable {s : State} {off : BitVec 32} {v : Word} {k : Nat}

/-! ### The regions the tables speak of -/

theorem regionOf_hashOffset (j : Fin 8) : regionOf (hashOffset j.val) = .hash j :=
  regionOf_hash j (Nat.mod_eq_of_lt (by omega))

/-- The offsets that both tables of 32-bit transactions reject (44_control.md R234, R235) select no word. -/
theorem regionOf_of_noWord (h : misalignedRegister off ∨ inOutWindow off ∨ inMsgWindow off) :
    regionOf off = .insideRegister ∨ (∃ k, regionOf off = .outByte k) ∨ ∃ k, regionOf off = .msgByte k := by
  rcases h with ⟨register, misaligned⟩ | ⟨lo, hi⟩ | ⟨lo, hi⟩
  · exact .inl (regionOf_insideRegister register misaligned)
  · exact .inr (.inl ⟨_, regionOf_outByte lo hi⟩)
  · exact .inr (.inr ⟨_, regionOf_msgByte lo hi⟩)

/-- A register offset selects a register or a byte inside one. -/
theorem regionOf_of_registerOffset (h : registerOffset off) :
    (∀ k, regionOf off ≠ .outByte k) ∧ (∀ k, regionOf off ≠ .msgByte k) ∧ regionOf off ≠ .reserved := by
  unfold registerOffset at h
  rcases regionOf_cases off with ⟨-, r⟩ | ⟨-, r⟩ | ⟨-, r⟩ | ⟨-, r⟩ | ⟨-, r⟩ | ⟨-, -, r⟩ | ⟨_, -, r⟩ |
    elsewhere
  case inr.inr.inr.inr.inr.inr.inr => omega
  all_goals simp [r]

/-- Outside the MSG window no offset selects a message byte. -/
theorem regionOf_ne_msgByte (h : inOutWindow off ∨ registerOffset off ∨ reservedOffset off) (k : Nat) :
    regionOf off ≠ .msgByte k := by
  intro region
  obtain ⟨offset, inside⟩ := regionOf_eq_msgByte region
  unfold inOutWindow registerOffset reservedOffset at h
  omega

/-! ### The status and configuration words -/

theorem toNat_append_eq_add {n m : Nat} (x : BitVec n) (y : BitVec m) :
    (x ++ y).toNat = x.toNat * 2 ^ m + y.toNat := by
  rw [BitVec.toNat_append, ← Nat.shiftLeft_add_eq_or_of_lt y.isLt, Nat.shiftLeft_eq]

theorem statusWord_toNat (s : State) :
    (statusWord s).toNat = s.busy.toNat + 2 * s.done.toNat + 4 * s.cmdErr.toNat := by
  simp only [statusWord, toNat_append_eq_add, BitVec.toNat_ofBool, BitVec.toNat_ofNat]
  omega

theorem cfgWord_toNat (s : State) : (cfgWord s).toNat = (modeCode s.mode).toNat + 4 * s.diag.toNat := by
  simp only [cfgWord, toNat_append_eq_add, BitVec.toNat_ofBool, BitVec.toNat_ofNat]
  omega

/-! ### RD32 -/

theorem execRd32_outLen_idle (idle : s.busy = false) :
    execRd32 0x000C#32 s = .next (returnWord s (s.outLen.setWidth 32)) := by
  simp only [execRd32, show regionOf 0x000C#32 = .outLen from rfl, idle, Bool.false_eq_true, if_false]

theorem execRd32_hash_completed {j : Fin 8} (region : regionOf off = .hash j) (idle : s.busy = false)
    (completed : s.done = true) : execRd32 off s = .next (returnWord s s.H[j]) := by
  simp [execRd32, region, idle, completed]

theorem execRd32_rejected (h : misalignedRegister off ∨ inOutWindow off ∨ inMsgWindow off) :
    execRd32 off s = .next (rejectRead32 s) := by
  rcases regionOf_of_noWord h with r | ⟨k, r⟩ | ⟨k, r⟩ <;> simp only [execRd32, r]

/-! ### WR32 -/

theorem writeStatus_eq (s : State) (v : Word) : writeStatus s v = { s with cmdErr := s.cmdErr && !v.getLsbD 2 } := by
  unfold writeStatus
  split
  · next clear => rw [clear, Bool.not_true, Bool.and_false]
  · next keep => rw [Bool.eq_false_of_not_eq_true keep, Bool.not_false, Bool.and_true]

theorem execWr32_msgLen_idle (idle : s.busy = false) : execWr32 0x0010#32 v s = .next { s with msgLen := v } := by
  simp only [execWr32, show regionOf 0x0010#32 = .msgLen from rfl, idle, Bool.false_eq_true, if_false]

theorem execWr32_msgLen_busy (busy : s.busy = true) : execWr32 0x0010#32 v s = .next (reject s) := by
  simp only [execWr32, show regionOf 0x0010#32 = .msgLen from rfl, busy, if_true]

theorem execWr32_hash {j : Fin 8} (region : regionOf off = .hash j) : execWr32 off v s = .next (reject s) := by
  simp only [execWr32, region]

theorem execWr32_rejected (h : misalignedRegister off ∨ inOutWindow off ∨ inMsgWindow off) :
    execWr32 off v s = .next (reject s) := by
  rcases regionOf_of_noWord h with r | ⟨k, r⟩ | ⟨k, r⟩ <;> simp only [execWr32, r]

/-! ### RD8 -/

theorem execRd8_msgByte (region : regionOf off = .msgByte k) :
    execRd8 off s = .next (returnStored s (s.M.read k)) := by
  simp only [execRd8, region]

/-- A byte of the valid text (43_output.md R190). -/
theorem execRd8_outByte_text (region : regionOf off = .outByte k) (idle : s.busy = false)
    (text : k < s.outLen.toNat) : execRd8 off s = .next (returnStored s (s.out.read k)) := by
  have specified : (s.busy || decide (s.outLen.toNat ≤ k)) = false := by simp [idle, text]
  simp only [execRd8, region, specified, Bool.false_eq_true, if_false]

theorem execRd8_register (h : registerOffset off) : execRd8 off s = .next (rejectRead8 s) := by
  obtain ⟨notOut, notMsg, notReserved⟩ := regionOf_of_registerOffset h
  unfold execRd8
  split
  case h_1 k r => exact absurd r (notOut k)
  case h_2 k r => exact absurd r (notMsg k)
  case h_3 r => exact absurd r notReserved
  all_goals rfl

/-! ### WR8 -/

theorem execWr8_msgByte_idle (region : regionOf off = .msgByte k) (idle : s.busy = false) (b : Byte) :
    execWr8 off b s = .next { s with M := s.M.write k b } := by
  simp only [execWr8, region, idle, Bool.false_eq_true, if_false]

theorem execWr8_msgByte_busy (region : regionOf off = .msgByte k) (busy : s.busy = true) (b : Byte) :
    execWr8 off b s = .next (reject s) := by
  simp only [execWr8, region, busy, if_true]

theorem execWr8_rejected (b : Byte) (notMsg : ∀ k, regionOf off ≠ .msgByte k) :
    execWr8 off b s = .next (reject s) := by
  unfold execWr8
  split
  case h_1 k r => exact absurd r (notMsg k)
  all_goals rfl

end Sys2Proof.Machine

namespace Sys2Proof.Proofs

open Sys2Proof Sys2Proof.Machine Sys2Proof.Claims

/-- Settles O38: each row of R234 is the answer of its region. -/
theorem rd32SpecifiedResults : Obligations.Rd32SpecifiedResults :=
  fun s => ⟨rfl, ⟨_, rfl, statusWord_toNat s⟩, ⟨_, rfl, cfgWord_toNat s⟩,
    fun idle => ⟨_, execRd32_outLen_idle idle, BitVec.toNat_setWidth_of_le (by decide)⟩, rfl,
    fun idle completed j => execRd32_hash_completed (regionOf_hashOffset j) idle completed,
    fun _ noWord => execRd32_rejected noWord⟩

/-- Settles O41: in a state of the invariant the text has been written, so no byte of it is free. -/
theorem rd8SpecifiedResults : Obligations.Rd8SpecifiedResults := by
  intro s off
  have text (inside : inOutWindow off) (idle : s.busy = false) (valid : off.toNat - 0x100 < s.outLen.toNat) (b : Byte)
      (written : s.out.read (off.toNat - 0x100) = some b) :
      exec (.rd8 off) s = .next (answered s (.byte b)) := by
    have read := execRd8_outByte_text (regionOf_outByte inside.1 inside.2) idle valid
    rwa [written] at read
  refine ⟨fun inside b written => ?_, fun inside unwritten => ?_, text, fun inv inside idle valid => ?_,
    execRd8_register⟩
  · have read := execRd8_msgByte (s := s) (regionOf_msgByte inside.1 inside.2)
    rwa [written] at read
  · have read := execRd8_msgByte (s := s) (regionOf_msgByte inside.1 inside.2)
    rw [unwritten] at read
    exact ⟨_, _, read, rfl⟩
  · obtain ⟨b, written⟩ := inv.textWritten _ valid
    exact ⟨b, written, text inside idle valid b written⟩

/-- Settles O42: in the MSG window BUSY decides, and only there is a byte stored. -/
theorem wr8StoresTheByte : Obligations.Wr8StoresTheByte := by
  refine fun s off b => ⟨fun inside idle => ?_,
    fun inside busy => execWr8_msgByte_busy (regionOf_msgByte inside.1 inside.2) busy b,
    fun outside => execWr8_rejected b (regionOf_ne_msgByte outside)⟩
  refine ⟨_, execWr8_msgByte_idle (regionOf_msgByte inside.1 inside.2) idle b, rfl, ?_, fun k other => ?_⟩
  · exact (Memory.read_write ..).trans (if_pos rfl)
  · exact (Memory.read_write ..).trans (if_neg other)

/-- Settles O40: each row of R235 is the answer of its region. -/
theorem wr32Table : Obligations.Wr32Table :=
  fun s v => ⟨congrArg _ (writeStatus_eq s v), execWr32_msgLen_idle, execWr32_msgLen_busy, rfl, rfl,
    fun j => execWr32_hash (regionOf_hashOffset j), fun _ noWord => execWr32_rejected noWord⟩

end Sys2Proof.Proofs
end

section
/-! PROOFS. Reset (70_reset_and_hazards.md R290, R291): the values of the reset state, and the reset input, which may
come in any state. -/

namespace Sys2Proof.Proofs

open Sys2Proof.Machine

/-- Settles O7: each item is a literal of the reset state. -/
theorem resetStateValues : Obligations.ResetStateValues := by
  unfold Obligations.ResetStateValues
  decide

/-- Settles O8: the reset input takes every specified item from the reset state, so the values are those of
`resetStateValues`. -/
theorem resetInputAbandonsTheRun : Obligations.ResetInputAbandonsTheRun := by
  intro s rest head
  have turns : (resetInput (popTurn s)).turns = rest := by simp [head]
  exact ⟨resetInput (popTurn s), step_reset (nextTurn_eq_of_cons head), turns, resetStateValues⟩

end Sys2Proof.Proofs
end
